-- ==== Sys2Proof/Word.lean ====
section
/-! DEFINITION. The two word types of the machine (00_scope.md R5, R7): `Byte` is the spec's `u8`, `Word` its `u16`. -/

namespace Sys2Proof

/-- `u8`: an integer in 0..255 (R7); every register but PC and every memory cell has this width (R5). -/
abbrev Byte := BitVec 8

/-- `u16`: an integer in 0..65535 (R7); PC and every bus address have this width (R5). -/
abbrev Word := BitVec 16

end Sys2Proof
end

