-- ==== Sys2Proof/Machine/Bits.lean ====
section
/-! DEFINITION. Bit fields, concatenation and extension of `u8` and `u16` (00_scope.md R7). -/

namespace Sys2Proof.Machine

/-- `lo(w) = w[7:0]` (R7). -/
def lo (w : Word) : Byte := w.extractLsb' 0 8

/-- `hi(w) = w[15:8]` (R7). -/
def hi (w : Word) : Byte := w.extractLsb' 8 8

/-- The concatenation `{h, l}` = `h * 256 + l` (R7), the high byte first as the spec writes it. -/
def word (h l : Byte) : Word := h ++ l

/-- `zext_16(b)` (R7). -/
def zext (b : Byte) : Word := b.setWidth 16

/-- `sext_16(b)` (R7): `b` read as a signed byte. -/
def sext16 (b : Byte) : Word := b.signExtend 16

/-- Two addresses with the same high byte: the comparison that R140 makes of `base` and `ea`, and R240 of `pcn` and `target`. -/
def samePage (u w : Word) : Bool := hi u == hi w

end Sys2Proof.Machine
end

