-- ==== Sys2Proof/Syntax.lean ====
section
/-! DEFINITION. The instruction set as syntax (30_encoding.md R100 to R109): one constructor per implemented row of
opcode_table.json, and `unsupported` for its UNSUPPORTED rows. Beside it the vocabulary of the table's columns: mnemonics and
operands by addressing mode. -/

namespace Sys2Proof

/-- The 56 mnemonics of R106, and the tag `UNSUPPORTED` that opcode_table.json gives the other bytes. -/
inductive Mnemonic
  | lda | ldx | ldy | sta | stx | sty | tax | tay | txa | tya | txs | tsx
  | adc | sbc | cmp | cpx | cpy | inc | inx | iny | dec | dex | dey | and
  | ora | eor | bit | asl | lsr | rol | ror | clc | sec | cli | sei | cld
  | sed | clv | nop | pha | pla | php | plp | bcc | bcs | beq | bne | bmi
  | bpl | bvc | bvs | jmp | jsr | rts | brk | rti
  | unsupported
deriving DecidableEq, Repr

/-- The operand of a mode that names a memory cell, with its operand bytes (40_addressing_modes.md R134 to R139, R143, R144). -/
inductive MemMode
  | zp (zp : Byte)
  | zpx (zp : Byte)
  | zpy (zp : Byte)
  | abs (addr : Word)
  | abx (addr : Word)
  | aby (addr : Word)
  | izx (zp : Byte)
  | izy (zp : Byte)
deriving DecidableEq, Repr

/-- The operand of an instruction by addressing mode (R102, R130), with its operand bytes. -/
inductive Operand
  | imp
  | acc
  | imm (v : Byte)
  | mem (m : MemMode)
  | ind (ptr : Word)
  | rel (rel : Byte)
deriving DecidableEq, Repr

/-- The instructions: the constructor is the table's row (mnemonic and mode), the argument its operand bytes. -/
inductive Instr
  | ldaImm (v : Byte)
  | ldaZp (zp : Byte)
  | ldaZpx (zp : Byte)
  | ldaAbs (addr : Word)
  | ldaAbx (addr : Word)
  | ldaAby (addr : Word)
  | ldaIzx (zp : Byte)
  | ldaIzy (zp : Byte)
  | ldxImm (v : Byte)
  | ldxZp (zp : Byte)
  | ldxZpy (zp : Byte)
  | ldxAbs (addr : Word)
  | ldxAby (addr : Word)
  | ldyImm (v : Byte)
  | ldyZp (zp : Byte)
  | ldyZpx (zp : Byte)
  | ldyAbs (addr : Word)
  | ldyAbx (addr : Word)
  | staZp (zp : Byte)
  | staZpx (zp : Byte)
  | staAbs (addr : Word)
  | staAbx (addr : Word)
  | staAby (addr : Word)
  | staIzx (zp : Byte)
  | staIzy (zp : Byte)
  | stxZp (zp : Byte)
  | stxZpy (zp : Byte)
  | stxAbs (addr : Word)
  | styZp (zp : Byte)
  | styZpx (zp : Byte)
  | styAbs (addr : Word)
  | tax
  | tay
  | txa
  | tya
  | txs
  | tsx
  | adcImm (v : Byte)
  | adcZp (zp : Byte)
  | adcZpx (zp : Byte)
  | adcAbs (addr : Word)
  | adcAbx (addr : Word)
  | adcAby (addr : Word)
  | adcIzx (zp : Byte)
  | adcIzy (zp : Byte)
  | sbcImm (v : Byte)
  | sbcZp (zp : Byte)
  | sbcZpx (zp : Byte)
  | sbcAbs (addr : Word)
  | sbcAbx (addr : Word)
  | sbcAby (addr : Word)
  | sbcIzx (zp : Byte)
  | sbcIzy (zp : Byte)
  | cmpImm (v : Byte)
  | cmpZp (zp : Byte)
  | cmpZpx (zp : Byte)
  | cmpAbs (addr : Word)
  | cmpAbx (addr : Word)
  | cmpAby (addr : Word)
  | cmpIzx (zp : Byte)
  | cmpIzy (zp : Byte)
  | cpxImm (v : Byte)
  | cpxZp (zp : Byte)
  | cpxAbs (addr : Word)
  | cpyImm (v : Byte)
  | cpyZp (zp : Byte)
  | cpyAbs (addr : Word)
  | incZp (zp : Byte)
  | incZpx (zp : Byte)
  | incAbs (addr : Word)
  | incAbx (addr : Word)
  | inx
  | iny
  | decZp (zp : Byte)
  | decZpx (zp : Byte)
  | decAbs (addr : Word)
  | decAbx (addr : Word)
  | dex
  | dey
  | andImm (v : Byte)
  | andZp (zp : Byte)
  | andZpx (zp : Byte)
  | andAbs (addr : Word)
  | andAbx (addr : Word)
  | andAby (addr : Word)
  | andIzx (zp : Byte)
  | andIzy (zp : Byte)
  | oraImm (v : Byte)
  | oraZp (zp : Byte)
  | oraZpx (zp : Byte)
  | oraAbs (addr : Word)
  | oraAbx (addr : Word)
  | oraAby (addr : Word)
  | oraIzx (zp : Byte)
  | oraIzy (zp : Byte)
  | eorImm (v : Byte)
  | eorZp (zp : Byte)
  | eorZpx (zp : Byte)
  | eorAbs (addr : Word)
  | eorAbx (addr : Word)
  | eorAby (addr : Word)
  | eorIzx (zp : Byte)
  | eorIzy (zp : Byte)
  | bitZp (zp : Byte)
  | bitAbs (addr : Word)
  | aslAcc
  | aslZp (zp : Byte)
  | aslZpx (zp : Byte)
  | aslAbs (addr : Word)
  | aslAbx (addr : Word)
  | lsrAcc
  | lsrZp (zp : Byte)
  | lsrZpx (zp : Byte)
  | lsrAbs (addr : Word)
  | lsrAbx (addr : Word)
  | rolAcc
  | rolZp (zp : Byte)
  | rolZpx (zp : Byte)
  | rolAbs (addr : Word)
  | rolAbx (addr : Word)
  | rorAcc
  | rorZp (zp : Byte)
  | rorZpx (zp : Byte)
  | rorAbs (addr : Word)
  | rorAbx (addr : Word)
  | clc
  | sec
  | cli
  | sei
  | cld
  | sed
  | clv
  | nop
  | pha
  | pla
  | php
  | plp
  | bcc (rel : Byte)
  | bcs (rel : Byte)
  | beq (rel : Byte)
  | bne (rel : Byte)
  | bmi (rel : Byte)
  | bpl (rel : Byte)
  | bvc (rel : Byte)
  | bvs (rel : Byte)
  | jmpAbs (addr : Word)
  | jmpInd (ptr : Word)
  | jsr (addr : Word)
  | rts
  | brk
  | rti
  /-- An opcode byte with no instruction (R108): the 105 UNSUPPORTED rows, which share one rule (log 10). -/
  | unsupported (op : Byte)
deriving DecidableEq, Repr

end Sys2Proof
end

