-- ==== Sys2Proof/Decode.lean ====
section
/-! DEFINITION. The instruction decoder and, after it, the encoder (30_encoding.md R100 to R110, opcode_table.json). -/

namespace Sys2Proof

open Sys2Proof.Machine (lo hi word)

/-- Row `0x` of the table of R107, by the opcode's low nibble; every other byte of the row is unsupported (R108). -/
def decodeRow0 (low : Nat) (op b : Byte) (w : Word) : Instr :=
  match low with
  | 0x0 => .brk
  | 0x1 => .oraIzx b
  | 0x5 => .oraZp b
  | 0x6 => .aslZp b
  | 0x8 => .php
  | 0x9 => .oraImm b
  | 0xA => .aslAcc
  | 0xD => .oraAbs w
  | 0xE => .aslAbs w
  | _ => .unsupported op

/-- Row `1x` of the table of R107, by the opcode's low nibble; every other byte of the row is unsupported (R108). -/
def decodeRow1 (low : Nat) (op b : Byte) (w : Word) : Instr :=
  match low with
  | 0x0 => .bpl b
  | 0x1 => .oraIzy b
  | 0x5 => .oraZpx b
  | 0x6 => .aslZpx b
  | 0x8 => .clc
  | 0x9 => .oraAby w
  | 0xD => .oraAbx w
  | 0xE => .aslAbx w
  | _ => .unsupported op

/-- Row `2x` of the table of R107, by the opcode's low nibble; every other byte of the row is unsupported (R108). -/
def decodeRow2 (low : Nat) (op b : Byte) (w : Word) : Instr :=
  match low with
  | 0x0 => .jsr w
  | 0x1 => .andIzx b
  | 0x4 => .bitZp b
  | 0x5 => .andZp b
  | 0x6 => .rolZp b
  | 0x8 => .plp
  | 0x9 => .andImm b
  | 0xA => .rolAcc
  | 0xC => .bitAbs w
  | 0xD => .andAbs w
  | 0xE => .rolAbs w
  | _ => .unsupported op

/-- Row `3x` of the table of R107, by the opcode's low nibble; every other byte of the row is unsupported (R108). -/
def decodeRow3 (low : Nat) (op b : Byte) (w : Word) : Instr :=
  match low with
  | 0x0 => .bmi b
  | 0x1 => .andIzy b
  | 0x5 => .andZpx b
  | 0x6 => .rolZpx b
  | 0x8 => .sec
  | 0x9 => .andAby w
  | 0xD => .andAbx w
  | 0xE => .rolAbx w
  | _ => .unsupported op

/-- Row `4x` of the table of R107, by the opcode's low nibble; every other byte of the row is unsupported (R108). -/
def decodeRow4 (low : Nat) (op b : Byte) (w : Word) : Instr :=
  match low with
  | 0x0 => .rti
  | 0x1 => .eorIzx b
  | 0x5 => .eorZp b
  | 0x6 => .lsrZp b
  | 0x8 => .pha
  | 0x9 => .eorImm b
  | 0xA => .lsrAcc
  | 0xC => .jmpAbs w
  | 0xD => .eorAbs w
  | 0xE => .lsrAbs w
  | _ => .unsupported op

/-- Row `5x` of the table of R107, by the opcode's low nibble; every other byte of the row is unsupported (R108). -/
def decodeRow5 (low : Nat) (op b : Byte) (w : Word) : Instr :=
  match low with
  | 0x0 => .bvc b
  | 0x1 => .eorIzy b
  | 0x5 => .eorZpx b
  | 0x6 => .lsrZpx b
  | 0x8 => .cli
  | 0x9 => .eorAby w
  | 0xD => .eorAbx w
  | 0xE => .lsrAbx w
  | _ => .unsupported op

/-- Row `6x` of the table of R107, by the opcode's low nibble; every other byte of the row is unsupported (R108). -/
def decodeRow6 (low : Nat) (op b : Byte) (w : Word) : Instr :=
  match low with
  | 0x0 => .rts
  | 0x1 => .adcIzx b
  | 0x5 => .adcZp b
  | 0x6 => .rorZp b
  | 0x8 => .pla
  | 0x9 => .adcImm b
  | 0xA => .rorAcc
  | 0xC => .jmpInd w
  | 0xD => .adcAbs w
  | 0xE => .rorAbs w
  | _ => .unsupported op

/-- Row `7x` of the table of R107, by the opcode's low nibble; every other byte of the row is unsupported (R108). -/
def decodeRow7 (low : Nat) (op b : Byte) (w : Word) : Instr :=
  match low with
  | 0x0 => .bvs b
  | 0x1 => .adcIzy b
  | 0x5 => .adcZpx b
  | 0x6 => .rorZpx b
  | 0x8 => .sei
  | 0x9 => .adcAby w
  | 0xD => .adcAbx w
  | 0xE => .rorAbx w
  | _ => .unsupported op

/-- Row `8x` of the table of R107, by the opcode's low nibble; every other byte of the row is unsupported (R108). -/
def decodeRow8 (low : Nat) (op b : Byte) (w : Word) : Instr :=
  match low with
  | 0x1 => .staIzx b
  | 0x4 => .styZp b
  | 0x5 => .staZp b
  | 0x6 => .stxZp b
  | 0x8 => .dey
  | 0xA => .txa
  | 0xC => .styAbs w
  | 0xD => .staAbs w
  | 0xE => .stxAbs w
  | _ => .unsupported op

/-- Row `9x` of the table of R107, by the opcode's low nibble; every other byte of the row is unsupported (R108). -/
def decodeRow9 (low : Nat) (op b : Byte) (w : Word) : Instr :=
  match low with
  | 0x0 => .bcc b
  | 0x1 => .staIzy b
  | 0x4 => .styZpx b
  | 0x5 => .staZpx b
  | 0x6 => .stxZpy b
  | 0x8 => .tya
  | 0x9 => .staAby w
  | 0xA => .txs
  | 0xD => .staAbx w
  | _ => .unsupported op

/-- Row `Ax` of the table of R107, by the opcode's low nibble; every other byte of the row is unsupported (R108). -/
def decodeRowA (low : Nat) (op b : Byte) (w : Word) : Instr :=
  match low with
  | 0x0 => .ldyImm b
  | 0x1 => .ldaIzx b
  | 0x2 => .ldxImm b
  | 0x4 => .ldyZp b
  | 0x5 => .ldaZp b
  | 0x6 => .ldxZp b
  | 0x8 => .tay
  | 0x9 => .ldaImm b
  | 0xA => .tax
  | 0xC => .ldyAbs w
  | 0xD => .ldaAbs w
  | 0xE => .ldxAbs w
  | _ => .unsupported op

/-- Row `Bx` of the table of R107, by the opcode's low nibble; every other byte of the row is unsupported (R108). -/
def decodeRowB (low : Nat) (op b : Byte) (w : Word) : Instr :=
  match low with
  | 0x0 => .bcs b
  | 0x1 => .ldaIzy b
  | 0x4 => .ldyZpx b
  | 0x5 => .ldaZpx b
  | 0x6 => .ldxZpy b
  | 0x8 => .clv
  | 0x9 => .ldaAby w
  | 0xA => .tsx
  | 0xC => .ldyAbx w
  | 0xD => .ldaAbx w
  | 0xE => .ldxAby w
  | _ => .unsupported op

/-- Row `Cx` of the table of R107, by the opcode's low nibble; every other byte of the row is unsupported (R108). -/
def decodeRowC (low : Nat) (op b : Byte) (w : Word) : Instr :=
  match low with
  | 0x0 => .cpyImm b
  | 0x1 => .cmpIzx b
  | 0x4 => .cpyZp b
  | 0x5 => .cmpZp b
  | 0x6 => .decZp b
  | 0x8 => .iny
  | 0x9 => .cmpImm b
  | 0xA => .dex
  | 0xC => .cpyAbs w
  | 0xD => .cmpAbs w
  | 0xE => .decAbs w
  | _ => .unsupported op

/-- Row `Dx` of the table of R107, by the opcode's low nibble; every other byte of the row is unsupported (R108). -/
def decodeRowD (low : Nat) (op b : Byte) (w : Word) : Instr :=
  match low with
  | 0x0 => .bne b
  | 0x1 => .cmpIzy b
  | 0x5 => .cmpZpx b
  | 0x6 => .decZpx b
  | 0x8 => .cld
  | 0x9 => .cmpAby w
  | 0xD => .cmpAbx w
  | 0xE => .decAbx w
  | _ => .unsupported op

/-- Row `Ex` of the table of R107, by the opcode's low nibble; every other byte of the row is unsupported (R108). -/
def decodeRowE (low : Nat) (op b : Byte) (w : Word) : Instr :=
  match low with
  | 0x0 => .cpxImm b
  | 0x1 => .sbcIzx b
  | 0x4 => .cpxZp b
  | 0x5 => .sbcZp b
  | 0x6 => .incZp b
  | 0x8 => .inx
  | 0x9 => .sbcImm b
  | 0xA => .nop
  | 0xC => .cpxAbs w
  | 0xD => .sbcAbs w
  | 0xE => .incAbs w
  | _ => .unsupported op

/-- Row `Fx` of the table of R107, by the opcode's low nibble; every other byte of the row is unsupported (R108). -/
def decodeRowF (low : Nat) (op b : Byte) (w : Word) : Instr :=
  match low with
  | 0x0 => .beq b
  | 0x1 => .sbcIzy b
  | 0x5 => .sbcZpx b
  | 0x6 => .incZpx b
  | 0x8 => .sed
  | 0x9 => .sbcAby w
  | 0xD => .sbcAbx w
  | 0xE => .incAbx w
  | _ => .unsupported op

/-- `Dispatch(op)` (R105) with the operand bytes assembled (R104): `b1` as a byte, `{b2, b1}` as a word, each used only by a
mode of its width. Total on all 256 opcode bytes. -/
def decodeOp (op b1 b2 : Byte) : Instr :=
  let low := op.toNat % 16
  let w := word b2 b1
  match op.toNat / 16 with
  | 0x0 => decodeRow0 low op b1 w
  | 0x1 => decodeRow1 low op b1 w
  | 0x2 => decodeRow2 low op b1 w
  | 0x3 => decodeRow3 low op b1 w
  | 0x4 => decodeRow4 low op b1 w
  | 0x5 => decodeRow5 low op b1 w
  | 0x6 => decodeRow6 low op b1 w
  | 0x7 => decodeRow7 low op b1 w
  | 0x8 => decodeRow8 low op b1 w
  | 0x9 => decodeRow9 low op b1 w
  | 0xA => decodeRowA low op b1 w
  | 0xB => decodeRowB low op b1 w
  | 0xC => decodeRowC low op b1 w
  | 0xD => decodeRowD low op b1 w
  | 0xE => decodeRowE low op b1 w
  | _ => decodeRowF low op b1 w

/-- The mnemonic column of the table. -/
def Instr.mnemonic (i : Instr) : Mnemonic :=
  match i with
  | .ldaImm _ | .ldaZp _ | .ldaZpx _ | .ldaAbs _ | .ldaAbx _ | .ldaAby _ | .ldaIzx _ | .ldaIzy _ => .lda
  | .ldxImm _ | .ldxZp _ | .ldxZpy _ | .ldxAbs _ | .ldxAby _ => .ldx
  | .ldyImm _ | .ldyZp _ | .ldyZpx _ | .ldyAbs _ | .ldyAbx _ => .ldy
  | .staZp _ | .staZpx _ | .staAbs _ | .staAbx _ | .staAby _ | .staIzx _ | .staIzy _ => .sta
  | .stxZp _ | .stxZpy _ | .stxAbs _ => .stx
  | .styZp _ | .styZpx _ | .styAbs _ => .sty
  | .tax => .tax
  | .tay => .tay
  | .txa => .txa
  | .tya => .tya
  | .txs => .txs
  | .tsx => .tsx
  | .adcImm _ | .adcZp _ | .adcZpx _ | .adcAbs _ | .adcAbx _ | .adcAby _ | .adcIzx _ | .adcIzy _ => .adc
  | .sbcImm _ | .sbcZp _ | .sbcZpx _ | .sbcAbs _ | .sbcAbx _ | .sbcAby _ | .sbcIzx _ | .sbcIzy _ => .sbc
  | .cmpImm _ | .cmpZp _ | .cmpZpx _ | .cmpAbs _ | .cmpAbx _ | .cmpAby _ | .cmpIzx _ | .cmpIzy _ => .cmp
  | .cpxImm _ | .cpxZp _ | .cpxAbs _ => .cpx
  | .cpyImm _ | .cpyZp _ | .cpyAbs _ => .cpy
  | .incZp _ | .incZpx _ | .incAbs _ | .incAbx _ => .inc
  | .inx => .inx
  | .iny => .iny
  | .decZp _ | .decZpx _ | .decAbs _ | .decAbx _ => .dec
  | .dex => .dex
  | .dey => .dey
  | .andImm _ | .andZp _ | .andZpx _ | .andAbs _ | .andAbx _ | .andAby _ | .andIzx _ | .andIzy _ => .and
  | .oraImm _ | .oraZp _ | .oraZpx _ | .oraAbs _ | .oraAbx _ | .oraAby _ | .oraIzx _ | .oraIzy _ => .ora
  | .eorImm _ | .eorZp _ | .eorZpx _ | .eorAbs _ | .eorAbx _ | .eorAby _ | .eorIzx _ | .eorIzy _ => .eor
  | .bitZp _ | .bitAbs _ => .bit
  | .aslAcc | .aslZp _ | .aslZpx _ | .aslAbs _ | .aslAbx _ => .asl
  | .lsrAcc | .lsrZp _ | .lsrZpx _ | .lsrAbs _ | .lsrAbx _ => .lsr
  | .rolAcc | .rolZp _ | .rolZpx _ | .rolAbs _ | .rolAbx _ => .rol
  | .rorAcc | .rorZp _ | .rorZpx _ | .rorAbs _ | .rorAbx _ => .ror
  | .clc => .clc
  | .sec => .sec
  | .cli => .cli
  | .sei => .sei
  | .cld => .cld
  | .sed => .sed
  | .clv => .clv
  | .nop => .nop
  | .pha => .pha
  | .pla => .pla
  | .php => .php
  | .plp => .plp
  | .bcc _ => .bcc
  | .bcs _ => .bcs
  | .beq _ => .beq
  | .bne _ => .bne
  | .bmi _ => .bmi
  | .bpl _ => .bpl
  | .bvc _ => .bvc
  | .bvs _ => .bvs
  | .jmpAbs _ | .jmpInd _ => .jmp
  | .jsr _ => .jsr
  | .rts => .rts
  | .brk => .brk
  | .rti => .rti
  | .unsupported _ => .unsupported

/-- The format column of the table (the addressing mode, R102), with the operand bytes of the instruction. -/
def Instr.operand (i : Instr) : Operand :=
  match i with
  | .tax | .tay | .txa | .tya | .txs | .tsx | .inx | .iny => .imp
  | .dex | .dey | .clc | .sec | .cli | .sei | .cld | .sed => .imp
  | .clv | .nop | .pha | .pla | .php | .plp | .rts | .brk => .imp
  | .rti => .imp
  | .aslAcc | .lsrAcc | .rolAcc | .rorAcc => .acc
  | .ldaImm v | .ldxImm v | .ldyImm v | .adcImm v | .sbcImm v | .cmpImm v | .cpxImm v | .cpyImm v => .imm v
  | .andImm v | .oraImm v | .eorImm v => .imm v
  | .ldaZp zp | .ldxZp zp | .ldyZp zp | .staZp zp | .stxZp zp | .styZp zp | .adcZp zp | .sbcZp zp => .mem (.zp zp)
  | .cmpZp zp | .cpxZp zp | .cpyZp zp | .incZp zp | .decZp zp | .andZp zp | .oraZp zp | .eorZp zp => .mem (.zp zp)
  | .bitZp zp | .aslZp zp | .lsrZp zp | .rolZp zp | .rorZp zp => .mem (.zp zp)
  | .ldaZpx zp | .ldyZpx zp | .staZpx zp | .styZpx zp | .adcZpx zp | .sbcZpx zp | .cmpZpx zp | .incZpx zp => .mem (.zpx zp)
  | .decZpx zp | .andZpx zp | .oraZpx zp | .eorZpx zp | .aslZpx zp | .lsrZpx zp | .rolZpx zp | .rorZpx zp => .mem (.zpx zp)
  | .ldxZpy zp | .stxZpy zp => .mem (.zpy zp)
  | .ldaAbs addr | .ldxAbs addr | .ldyAbs addr | .staAbs addr | .stxAbs addr | .styAbs addr | .adcAbs addr | .sbcAbs addr => .mem (.abs addr)
  | .cmpAbs addr | .cpxAbs addr | .cpyAbs addr | .incAbs addr | .decAbs addr | .andAbs addr | .oraAbs addr | .eorAbs addr => .mem (.abs addr)
  | .bitAbs addr | .aslAbs addr | .lsrAbs addr | .rolAbs addr | .rorAbs addr | .jmpAbs addr | .jsr addr => .mem (.abs addr)
  | .ldaAbx addr | .ldyAbx addr | .staAbx addr | .adcAbx addr | .sbcAbx addr | .cmpAbx addr | .incAbx addr | .decAbx addr => .mem (.abx addr)
  | .andAbx addr | .oraAbx addr | .eorAbx addr | .aslAbx addr | .lsrAbx addr | .rolAbx addr | .rorAbx addr => .mem (.abx addr)
  | .ldaAby addr | .ldxAby addr | .staAby addr | .adcAby addr | .sbcAby addr | .cmpAby addr | .andAby addr | .oraAby addr => .mem (.aby addr)
  | .eorAby addr => .mem (.aby addr)
  | .jmpInd ptr => .ind ptr
  | .ldaIzx zp | .staIzx zp | .adcIzx zp | .sbcIzx zp | .cmpIzx zp | .andIzx zp | .oraIzx zp | .eorIzx zp => .mem (.izx zp)
  | .ldaIzy zp | .staIzy zp | .adcIzy zp | .sbcIzy zp | .cmpIzy zp | .andIzy zp | .oraIzy zp | .eorIzy zp => .mem (.izy zp)
  | .bcc rel | .bcs rel | .beq rel | .bne rel | .bmi rel | .bpl rel | .bvc rel | .bvs rel => .rel rel
  | .unsupported _ => .imp

/-- The opcode column of the table (R106). -/
def Instr.opcode (i : Instr) : Byte :=
  match i with
  | .ldaImm _ => 0xA9
  | .ldaZp _ => 0xA5
  | .ldaZpx _ => 0xB5
  | .ldaAbs _ => 0xAD
  | .ldaAbx _ => 0xBD
  | .ldaAby _ => 0xB9
  | .ldaIzx _ => 0xA1
  | .ldaIzy _ => 0xB1
  | .ldxImm _ => 0xA2
  | .ldxZp _ => 0xA6
  | .ldxZpy _ => 0xB6
  | .ldxAbs _ => 0xAE
  | .ldxAby _ => 0xBE
  | .ldyImm _ => 0xA0
  | .ldyZp _ => 0xA4
  | .ldyZpx _ => 0xB4
  | .ldyAbs _ => 0xAC
  | .ldyAbx _ => 0xBC
  | .staZp _ => 0x85
  | .staZpx _ => 0x95
  | .staAbs _ => 0x8D
  | .staAbx _ => 0x9D
  | .staAby _ => 0x99
  | .staIzx _ => 0x81
  | .staIzy _ => 0x91
  | .stxZp _ => 0x86
  | .stxZpy _ => 0x96
  | .stxAbs _ => 0x8E
  | .styZp _ => 0x84
  | .styZpx _ => 0x94
  | .styAbs _ => 0x8C
  | .tax => 0xAA
  | .tay => 0xA8
  | .txa => 0x8A
  | .tya => 0x98
  | .txs => 0x9A
  | .tsx => 0xBA
  | .adcImm _ => 0x69
  | .adcZp _ => 0x65
  | .adcZpx _ => 0x75
  | .adcAbs _ => 0x6D
  | .adcAbx _ => 0x7D
  | .adcAby _ => 0x79
  | .adcIzx _ => 0x61
  | .adcIzy _ => 0x71
  | .sbcImm _ => 0xE9
  | .sbcZp _ => 0xE5
  | .sbcZpx _ => 0xF5
  | .sbcAbs _ => 0xED
  | .sbcAbx _ => 0xFD
  | .sbcAby _ => 0xF9
  | .sbcIzx _ => 0xE1
  | .sbcIzy _ => 0xF1
  | .cmpImm _ => 0xC9
  | .cmpZp _ => 0xC5
  | .cmpZpx _ => 0xD5
  | .cmpAbs _ => 0xCD
  | .cmpAbx _ => 0xDD
  | .cmpAby _ => 0xD9
  | .cmpIzx _ => 0xC1
  | .cmpIzy _ => 0xD1
  | .cpxImm _ => 0xE0
  | .cpxZp _ => 0xE4
  | .cpxAbs _ => 0xEC
  | .cpyImm _ => 0xC0
  | .cpyZp _ => 0xC4
  | .cpyAbs _ => 0xCC
  | .incZp _ => 0xE6
  | .incZpx _ => 0xF6
  | .incAbs _ => 0xEE
  | .incAbx _ => 0xFE
  | .inx => 0xE8
  | .iny => 0xC8
  | .decZp _ => 0xC6
  | .decZpx _ => 0xD6
  | .decAbs _ => 0xCE
  | .decAbx _ => 0xDE
  | .dex => 0xCA
  | .dey => 0x88
  | .andImm _ => 0x29
  | .andZp _ => 0x25
  | .andZpx _ => 0x35
  | .andAbs _ => 0x2D
  | .andAbx _ => 0x3D
  | .andAby _ => 0x39
  | .andIzx _ => 0x21
  | .andIzy _ => 0x31
  | .oraImm _ => 0x09
  | .oraZp _ => 0x05
  | .oraZpx _ => 0x15
  | .oraAbs _ => 0x0D
  | .oraAbx _ => 0x1D
  | .oraAby _ => 0x19
  | .oraIzx _ => 0x01
  | .oraIzy _ => 0x11
  | .eorImm _ => 0x49
  | .eorZp _ => 0x45
  | .eorZpx _ => 0x55
  | .eorAbs _ => 0x4D
  | .eorAbx _ => 0x5D
  | .eorAby _ => 0x59
  | .eorIzx _ => 0x41
  | .eorIzy _ => 0x51
  | .bitZp _ => 0x24
  | .bitAbs _ => 0x2C
  | .aslAcc => 0x0A
  | .aslZp _ => 0x06
  | .aslZpx _ => 0x16
  | .aslAbs _ => 0x0E
  | .aslAbx _ => 0x1E
  | .lsrAcc => 0x4A
  | .lsrZp _ => 0x46
  | .lsrZpx _ => 0x56
  | .lsrAbs _ => 0x4E
  | .lsrAbx _ => 0x5E
  | .rolAcc => 0x2A
  | .rolZp _ => 0x26
  | .rolZpx _ => 0x36
  | .rolAbs _ => 0x2E
  | .rolAbx _ => 0x3E
  | .rorAcc => 0x6A
  | .rorZp _ => 0x66
  | .rorZpx _ => 0x76
  | .rorAbs _ => 0x6E
  | .rorAbx _ => 0x7E
  | .clc => 0x18
  | .sec => 0x38
  | .cli => 0x58
  | .sei => 0x78
  | .cld => 0xD8
  | .sed => 0xF8
  | .clv => 0xB8
  | .nop => 0xEA
  | .pha => 0x48
  | .pla => 0x68
  | .php => 0x08
  | .plp => 0x28
  | .bcc _ => 0x90
  | .bcs _ => 0xB0
  | .beq _ => 0xF0
  | .bne _ => 0xD0
  | .bmi _ => 0x30
  | .bpl _ => 0x10
  | .bvc _ => 0x50
  | .bvs _ => 0x70
  | .jmpAbs _ => 0x4C
  | .jmpInd _ => 0x6C
  | .jsr _ => 0x20
  | .rts => 0x60
  | .brk => 0x00
  | .rti => 0x40
  | .unsupported op => op

/-- The operand bytes of a memory mode, low byte first (R101). -/
def MemMode.bytes (m : MemMode) : List Byte :=
  match m with
  | .zp b | .zpx b | .zpy b | .izx b | .izy b => [b]
  | .abs w | .abx w | .aby w => [lo w, hi w]

/-- The operand bytes, low byte first (R101). -/
def Operand.bytes (o : Operand) : List Byte :=
  match o with
  | .imp | .acc => []
  | .imm b | .rel b => [b]
  | .mem m => m.bytes
  | .ind w => [lo w, hi w]

/-- `width(mode)`: how many operand bytes follow the opcode (R102). -/
def Operand.width (o : Operand) : Nat := o.bytes.length

/-- `1 + width(mode)`: the length of the instruction in bytes (R102). -/
def Instr.length (i : Instr) : Nat := 1 + i.operand.width

/-- How many operand bytes the instruction with this opcode byte has: the decoder needs the first byte only (R102). An
unsupported byte has none (R103: no operand byte is read). -/
def operandWidth (op : Byte) : Nat := (decodeOp op 0 0).operand.width

/-- Why a byte sequence holds no whole instruction. -/
inductive DecodeReject
  /-- The sequence ends before the instruction does: `missing` more bytes are needed. -/
  | truncated (missing : Nat)
deriving DecidableEq, Repr

/-- The first instruction of a byte sequence, and the bytes after it. An opcode byte that R108 lists decodes to the
instruction `unsupported`, by name. -/
def decode (bytes : List Byte) : Except DecodeReject (Instr × List Byte) :=
  match bytes with
  | [] => .error (.truncated 1)
  | op :: rest =>
    match operandWidth op, rest with
    | 0, rest => .ok (decodeOp op 0 0, rest)
    | 1, b1 :: rest => .ok (decodeOp op b1 0, rest)
    | 1, [] => .error (.truncated 1)
    | _, b1 :: b2 :: rest => .ok (decodeOp op b1 b2, rest)
    | _, [_] => .error (.truncated 1)
    | _, [] => .error (.truncated 2)

/-- The bytes of an instruction in memory order (R101). -/
def encode (i : Instr) : List Byte := i.opcode :: i.operand.bytes

/-- Byte `k` of a bit string whose bit 0 is the least significant bit of byte 0. -/
def byteOf (w k : Nat) : Byte := BitVec.ofNat 8 (w / 256 ^ k)

/-- The longest instruction's bytes, out of the `nbits` low bits of `w`; the bits above `nbits` are zero. -/
def tableBytes (nbits w : Nat) : List Byte :=
  let v := w % 2 ^ nbits
  [byteOf v 0, byteOf v 1, byteOf v 2]

/-- The instruction that the decoder reads from the `nbits` low bits of `w`, numbered as opcode_table.json numbers them. -/
def decodeTableWord (nbits w : Nat) : Option Instr :=
  match decode (tableBytes nbits w) with
  | .ok (i, _) => some i
  | .error _ => none

end Sys2Proof
end

