-- ==== Sys2Proof/Machine/Memory.lean ====
section
/-! DEFINITION. A store of bytes by address, in one canonical form: addresses strictly rising, and no entry equal to what an
unlisted address reads as. It holds the RAM cells of LowBus (20_memory.md R56) and the byte sequences of the
cartridge image (10_state.md R37). -/

namespace Sys2Proof.Machine

/-- Bytes by address, sparse. -/
abbrev Memory := List Host.Cell

/-- What an unlisted cell reads as: 0x00.
DESIGN CHOICE (log 6), unsafe for RAM: R38 leaves the content of RAM after power-on unspecified. -/
def Memory.unlisted : Byte := 0x00

/-- The byte at address `k`. -/
def Memory.read (m : Memory) (k : Nat) : Byte :=
  match m with
  | [] => Memory.unlisted
  | (a, v) :: rest => if a = k then v else Memory.read rest k

/-- The memory after `v` is written at `k` (R56: every later read of `k` gives `v`, and no other cell changes). -/
def Memory.write (m : Memory) (k : Nat) (v : Byte) : Memory :=
  match m with
  | [] => if v = Memory.unlisted then [] else [(k, v)]
  | (a, w) :: rest =>
    if k < a then (if v = Memory.unlisted then (a, w) :: rest else (k, v) :: (a, w) :: rest)
    else if a = k then (if v = Memory.unlisted then rest else (k, v) :: rest)
    else (a, w) :: Memory.write rest k v

/-- The canonical form: addresses strictly rising, nothing listed that reads as an unlisted cell does. -/
abbrev Memory.wf (m : Memory) : Prop :=
  m.Pairwise (fun c d => c.1 < d.1) ∧ ∀ c ∈ m, c.2 ≠ Memory.unlisted

/-- Every listed address is below `n`. -/
abbrev Memory.within (m : Memory) (n : Nat) : Prop := ∀ c ∈ m, c.1 < n

/-- The byte sequence `bs` placed at addresses `k`, `k + 1`, … -/
def Memory.ofBytesFrom (k : Nat) (bs : List Byte) : Memory :=
  match bs with
  | [] => []
  | b :: rest =>
    if b = Memory.unlisted then Memory.ofBytesFrom (k + 1) rest
    else (k, b) :: Memory.ofBytesFrom (k + 1) rest

/-- The byte sequence `bs` placed from address 0. -/
def Memory.ofBytes (bs : List Byte) : Memory := Memory.ofBytesFrom 0 bs

/-- The bytes at `k`, `k + 1`, …, `k + n - 1`. -/
def Memory.slice (m : Memory) (k n : Nat) : List Byte :=
  match n with
  | 0 => []
  | n + 1 => Memory.read m k :: Memory.slice m (k + 1) n

end Sys2Proof.Machine
end

