-- ==== Sys2Proof/Config.lean ====
section
/-! DEFINITION. What an implementation fixes (00_scope.md R6): the types of the parameters, and the values that the spec leaves
open. The reference values are in Machine/Parameters.lean. -/

namespace Sys2Proof

/-- The pair of bank numbers `(lower, upper)` that R36 calls `loaded_pages`: which 16 KiB program-ROM bank each of the two
CPU windows shows. -/
structure Pages where
  lower : Nat
  upper : Nat
deriving DecidableEq, Repr

/-- Which value a parameter of R6 that is a function takes: its reference value, or the `k`-th of the values of which nothing is
known but what the spec demands of every one (log 2). -/
inductive Choice
  | reference
  | other (k : Nat)
deriving DecidableEq, Repr

/-- One access to the bus (R85). -/
inductive Access
  /-- `MemRead(addr, 1)`, and the byte it returned. -/
  | read (addr : Word) (v : Byte)
  /-- `MemWrite(addr, 1, v)`. -/
  | write (addr : Word) (v : Byte)
deriving DecidableEq, Repr

/-- What the parameter `LowBus` has in a range of addresses (R56; log 5). -/
inductive LowKind
  /-- RAM: the `size` cells from `base` on, repeated over the range, so that addresses with one cell are mirrors. -/
  | ram (base size : Nat)
  /-- The `k`-th device, whose reads are answered by an oracle and may have side effects. -/
  | device (k : Nat)
deriving DecidableEq, Repr

/-- A range of `LowBus` addresses, both ends inclusive. -/
structure LowRange where
  first : Word
  last : Word
  kind : LowKind
deriving DecidableEq, Repr

/-- The parameters of R6 that have no state. R39 calls them configuration, "fixed for a run, arguments of the step function";
`State.cfg` carries them and nothing changes them (log 1). `LowBus` has state of its own (R38): its launch value is an argument
of `Machine.State.powerOn`, and `Machine.Bus.low` holds it (log 5). -/
structure Params where
  /-- `MAPPER_ID`: the one mapper id that `load` accepts (R66). -/
  mapperId : Byte
  /-- `CTRL_LO`: first address of the mapper control range (R73). -/
  ctrlLo : Word
  /-- `CTRL_HI`: last address of the mapper control range, inclusive (R73). -/
  ctrlHi : Word
  /-- `VEC_NMI`: address of the NMI vector (R51). -/
  vecNmi : Word
  /-- `VEC_RESET`: address of the RESET vector (R51). -/
  vecReset : Word
  /-- `VEC_IRQ`: address of the vector that IRQ and BRK share (R51). -/
  vecIrq : Word
  /-- `JMP_IND_PAGE_WRAP`: `JMP (ind)` takes its high byte from the pointer's own page (R142). -/
  jmpIndPageWrap : Bool
  /-- `InitPages` (R70). -/
  initPages : Choice
  /-- `BankSelect` (R73, R74). -/
  bankSelect : Choice
  /-- `BaseCycles` (R312). -/
  baseCycles : Choice
  /-- `DecimalNumerics` (R182, R184). -/
  decimal : Choice
deriving DecidableEq, Repr

namespace Config

/-- Free value: the `k`-th `InitPages` that is not the reference, before it is brought into range (R70; log 2). -/
opaque initPages (k n : Nat) : Nat × Nat

/-- Free value: the `k`-th `BankSelect` that is not the reference, before it is brought into range (R74; log 2). -/
opaque bankSelect (k : Nat) (addr : Word) (v : Byte) (lower upper n : Nat) : Nat × Nat

/-- Free value: the `k`-th `BaseCycles` that is not the reference (R312; log 3). -/
opaque baseCycles (k : Nat) (op : Byte) : Nat

/-- Free value: A after ADC with D = 1 on operands that are not valid BCD, under the `k`-th `DecimalNumerics` (R182; log 4). -/
opaque decimalSum (k : Nat) (a v : Byte) (c : Bool) : Byte

/-- Free values: C, V and N after the same ADC (R182; log 4). -/
opaque decimalSumFlags (k : Nat) (a v : Byte) (c : Bool) : Bool × Bool × Bool

/-- Free value: A after SBC with D = 1 on operands that are not valid BCD, under the `k`-th `DecimalNumerics` (R184; log 4). -/
opaque decimalDifference (k : Nat) (a v : Byte) (c : Bool) : Byte

/-- Free value: what the `k`-th device of `LowBus` answers to a read of `addr` after the accesses of `history`, oldest first
(R56: an oracle that answers reads; log 5). Each read lengthens the history, so no two reads share an answer. -/
opaque deviceRead (k : Nat) (history : List Access) (addr : Word) : Byte

end Config

end Sys2Proof
end

