-- ==== Sys2Proof/Machine/Parameters.lean ====
section
/-! DEFINITION. The parameters of 00_scope.md R6: their reference values, the ones the spec's test vectors use, and the parameters
that are functions under every choice of them. -/

namespace Sys2Proof.Machine

/-- The reference values (R6; log 1). -/
def referenceParams : Params where
  mapperId := 2
  ctrlLo := 0x8000
  ctrlHi := 0xFFFF
  vecNmi := 0xFFFA
  vecReset := 0xFFFC
  vecIrq := 0xFFFE
  jmpIndPageWrap := true
  initPages := .reference
  bankSelect := .reference
  baseCycles := .reference
  decimal := .reference

/-- `InitPages(n)` (R70): at its reference value `(0, n - 1)`; any other is free but for R36, which its remainders by `n`
meet (log 2). -/
def initPages (choice : Choice) (n : Nat) : Pages :=
  match choice with
  | .reference => ⟨0, n - 1⟩
  | .other k => ⟨(Config.initPages k n).1 % n, (Config.initPages k n).2 % n⟩

/-- `BankSelect(addr, v, (lower, upper), n)` (R73): at its reference value `(v mod n, upper)` (R75); any other is free but for
R74 a, which its remainders by `n` meet (log 2). -/
def bankSelect (choice : Choice) (addr : Word) (v : Byte) (p : Pages) (n : Nat) : Pages :=
  match choice with
  | .reference => ⟨v.toNat % n, p.upper⟩
  | .other k =>
    let q := Config.bankSelect k addr v p.lower p.upper n
    ⟨q.1 % n, q.2 % n⟩

/-- The column `base_cycles` of opcode_table.json, sixteen opcodes a line as in R107; 0 stands for an unsupported byte, which
has no cycle count (R312; log 3). -/
def baseCyclesTable : List Nat :=
  [7, 6, 0, 0, 0, 3, 5, 0, 3, 2, 2, 0, 0, 4, 6, 0]
  ++ [2, 5, 0, 0, 0, 4, 6, 0, 2, 4, 0, 0, 0, 4, 7, 0]
  ++ [6, 6, 0, 0, 3, 3, 5, 0, 4, 2, 2, 0, 4, 4, 6, 0]
  ++ [2, 5, 0, 0, 0, 4, 6, 0, 2, 4, 0, 0, 0, 4, 7, 0]
  ++ [6, 6, 0, 0, 0, 3, 5, 0, 3, 2, 2, 0, 3, 4, 6, 0]
  ++ [2, 5, 0, 0, 0, 4, 6, 0, 2, 4, 0, 0, 0, 4, 7, 0]
  ++ [6, 6, 0, 0, 0, 3, 5, 0, 4, 2, 2, 0, 5, 4, 6, 0]
  ++ [2, 5, 0, 0, 0, 4, 6, 0, 2, 4, 0, 0, 0, 4, 7, 0]
  ++ [0, 6, 0, 0, 3, 3, 3, 0, 2, 0, 2, 0, 4, 4, 4, 0]
  ++ [2, 6, 0, 0, 4, 4, 4, 0, 2, 5, 2, 0, 0, 5, 0, 0]
  ++ [2, 6, 2, 0, 3, 3, 3, 0, 2, 2, 2, 0, 4, 4, 4, 0]
  ++ [2, 5, 0, 0, 4, 4, 4, 0, 2, 4, 2, 0, 4, 4, 4, 0]
  ++ [2, 6, 0, 0, 3, 3, 5, 0, 2, 2, 2, 0, 4, 4, 6, 0]
  ++ [2, 5, 0, 0, 0, 4, 6, 0, 2, 4, 0, 0, 0, 4, 7, 0]
  ++ [2, 6, 0, 0, 3, 3, 5, 0, 2, 2, 2, 0, 4, 4, 6, 0]
  ++ [2, 5, 0, 0, 0, 4, 6, 0, 2, 4, 0, 0, 0, 4, 7, 0]

/-- `BaseCycles(opcode)` (R6, R312): at its reference value the table; any other is free (log 3). -/
def baseCycles (choice : Choice) (op : Byte) : Nat :=
  match choice with
  | .reference => baseCyclesTable.getD op.toNat 0
  | .other k => Config.baseCycles k op

/-- The 23 opcodes marked `+` in R106: the ABX, ABY and IZY forms of the read-class instructions (R147; log 3). -/
def pageCrossOpcodes : List Byte :=
  [0x11, 0x19, 0x1D, 0x31, 0x39, 0x3D, 0x51, 0x59, 0x5D, 0x71, 0x79, 0x7D,
   0xB1, 0xB9, 0xBC, 0xBD, 0xBE, 0xD1, 0xD9, 0xDD, 0xF1, 0xF9, 0xFD]

/-- The opcode pays one more cycle when its index addition crosses a page (R147). -/
def paysPageCross (op : Byte) : Bool := pageCrossOpcodes.contains op

/-- The cycle count of an IRQ, NMI or RESET sequence (R278, R279, R312). -/
def sequenceCycles : Nat := 7

end Sys2Proof.Machine
end

