-- ==== Sys2Proof/Machine/Cartridge.lean ====
section
/-! DEFINITION. The cartridge image (10_state.md R37), its load with every check (20_memory.md R61 to R70), and the results of
a load that fails (60_exceptions.md R291). -/

namespace Sys2Proof.Machine

/-- The cartridge image (R37), immutable after load. The raw 16-byte header is the one home of the page counts, the flag
bytes and the mapper id (log 13); the ROM sections are byte sequences whose lengths the page counts fix (R68). -/
structure Cartridge where
  /-- Raw header bytes (R61, offsets 0 to 15). -/
  header : List Byte
  /-- `prg_rom`, by offset. -/
  prgRom : Memory
  /-- `chr_rom`, by offset. No CPU address reaches it (R76). -/
  chrRom : Memory
  /-- The 512-byte trainer, by offset, when it is present. No CPU address reaches it (R76). -/
  trainer : Option Memory
deriving DecidableEq, Repr

/-- Results of a load that fails (R291); none of them is a CPU exception. -/
inductive LoadError
  /-- The first four bytes are not the signature (R63). -/
  | invalidHeader
  /-- The byte sequence ends before the header or a ROM section does (R68). -/
  | truncatedImage
  /-- The extended-format marker is set, or a reserved byte is not zero (R64, R65). -/
  | unsupportedFormat
  /-- The mapper id is not `MAPPER_ID` (R66). -/
  | unsupportedMapper
  /-- `prg_rom_pages = 0`: the spec refuses the image and gives the refusal no name (R69; log 17). -/
  | noProgramRom
deriving DecidableEq, Repr

/-- A 16 KiB program-ROM page (R5). -/
def prgPageSize : Nat := 16384

/-- An 8 KiB character-ROM page (R5). -/
def chrPageSize : Nat := 8192

/-- The signature `N E S 0x1A` (R61). -/
def magic : List Byte := [0x4E, 0x45, 0x53, 0x1A]

/-- Byte `k` of a header. -/
def headerByte (header : List Byte) (k : Nat) : Byte := header.getD k 0

/-- `mapper_id = (flags6 >> 4) | ((flags7 >> 4) << 4)` (R65). -/
def mapperIdOf (flags6 flags7 : Byte) : Byte := (flags6 >>> 4) ||| ((flags7 >>> 4) <<< 4)

/-- `prg_rom_pages` (R61, offset 4). -/
def Cartridge.prgRomPages (c : Cartridge) : Nat := (headerByte c.header 4).toNat
/-- `chr_rom_pages` (R61, offset 5). -/
def Cartridge.chrRomPages (c : Cartridge) : Nat := (headerByte c.header 5).toNat
/-- `flags6` (R61, offset 6). -/
def Cartridge.flags6 (c : Cartridge) : Byte := headerByte c.header 6
/-- `flags7` (R61, offset 7). -/
def Cartridge.flags7 (c : Cartridge) : Byte := headerByte c.header 7
/-- The program-RAM size byte (R61, offset 8); no rule uses it (R76). -/
def Cartridge.prgRamSize (c : Cartridge) : Byte := headerByte c.header 8
/-- `flags9` (R61, offset 9); no rule uses it. -/
def Cartridge.flags9 (c : Cartridge) : Byte := headerByte c.header 9
/-- `flags10` (R61, offset 10); no rule uses it. -/
def Cartridge.flags10 (c : Cartridge) : Byte := headerByte c.header 10
/-- `mapper_id` (R65). -/
def Cartridge.mapperId (c : Cartridge) : Byte := mapperIdOf c.flags6 c.flags7

/-- The trainer's length: 512 bytes iff `flags6` bit 2 is set (R67). -/
def trainerLength (flags6 : Byte) : Nat := if flags6.getLsbD 2 then 512 else 0

/-- Lines 8 to 10 of R62 over `body`, the bytes after the header: the optional trainer, the program ROM and the character ROM in
that order. A short read anywhere is fatal (R68), and bytes after the character ROM are ignored. -/
def loadSections (header body : List Byte) : Except LoadError Cartridge :=
  let prgOff := trainerLength (headerByte header 6)
  let chrOff := prgOff + (headerByte header 4).toNat * prgPageSize
  let chrLen := (headerByte header 5).toNat * chrPageSize
  if body.length < chrOff + chrLen then .error .truncatedImage
  else .ok {
    header
    prgRom := Memory.ofBytes ((body.drop prgOff).take ((headerByte header 4).toNat * prgPageSize))
    chrRom := Memory.ofBytes ((body.drop chrOff).take chrLen)
    trainer := if (headerByte header 6).getLsbD 2 then some (Memory.ofBytes (body.take 512)) else none }

/-- `load(bytes)` (R62), its checks in the order R62 gives; the first one met is the result. -/
def load (mapperId : Byte) (bytes : List Byte) : Except LoadError Cartridge :=
  if bytes.take 4 ≠ magic then .error .invalidHeader
  else if bytes.length < 16 then .error .truncatedImage
  else if (headerByte bytes 7).getLsbD 2 then .error .unsupportedFormat
  else if ((bytes.drop 11).take 5).any (· ≠ 0) then .error .unsupportedFormat
  else if mapperIdOf (headerByte bytes 6) (headerByte bytes 7) ≠ mapperId then .error .unsupportedMapper
  else if headerByte bytes 4 = 0 then .error .noProgramRom
  else loadSections (bytes.take 16) (bytes.drop 16)

/-- The blank image that `State.reset` is built with: mapper id 2, two program-ROM pages of zero bytes, no character ROM, no
trainer. DESIGN CHOICE (log 7), unsafe: the spec loads an image from outside and names none. -/
def Cartridge.blank : Cartridge where
  header := [0x4E, 0x45, 0x53, 0x1A, 2, 0, 0x20, 0, 0, 0, 0, 0, 0, 0, 0, 0]
  prgRom := []
  chrRom := []
  trainer := none

/-- What `load` establishes of an image (R62 to R69): a good header, at least one program-ROM page, and ROM sections in
canonical form inside the lengths that the page counts fix. -/
structure Cartridge.wf (c : Cartridge) : Prop where
  header_length : c.header.length = 16
  header_magic : c.header.take 4 = magic
  legacy_format : c.flags7.getLsbD 2 = false
  reserved_zero : ∀ b ∈ c.header.drop 11, b = 0
  has_program_rom : 0 < c.prgRomPages
  prg_canonical : c.prgRom.wf
  prg_length : c.prgRom.within (c.prgRomPages * prgPageSize)
  chr_canonical : c.chrRom.wf
  chr_length : c.chrRom.within (c.chrRomPages * chrPageSize)
  trainer_present : c.trainer.isSome = c.flags6.getLsbD 2
  trainer_canonical : ∀ t, c.trainer = some t → t.wf ∧ t.within 512

end Sys2Proof.Machine
end

