-- ==== Sys2Proof/Machine/LowBus.lean ====
section
/-! DEFINITION. The parameter `LowBus` (20_memory.md R56): everything on the bus below 0x8000, with its state (10_state.md R38).
Its reference value is flat RAM; any other mixes RAM, mirrored or not, with devices that answer as oracles (log 5). -/

namespace Sys2Proof.Machine

/-- A value of `LowBus`, with its state. -/
structure LowBus where
  /-- What answers where; the first range that holds an address counts, and an address in none is RAM with its own cell. Nothing
  changes it in a run. -/
  map : List LowRange
  /-- The RAM cells. -/
  ram : Memory
  /-- Every access to a device so far, oldest first: whatever state the devices have is a function of it. -/
  history : List Access
deriving DecidableEq, Repr

/-- The reference value (R56): flat RAM of 32768 cells with the launch content `ram`. -/
def LowBus.flat (ram : Memory) : LowBus where
  map := []
  ram := ram
  history := []

/-- What answers at an address below 0x8000. -/
inductive LowTarget
  /-- A RAM cell. -/
  | cell (c : Nat)
  /-- A device. -/
  | device (k : Nat)
deriving DecidableEq, Repr

/-- What a range has at one of its addresses. Every cell number is below 0x8000. -/
def rangeTarget (r : LowRange) (a : Word) : LowTarget :=
  match r.kind with
  | .ram base size => .cell ((base + (a.toNat - r.first.toNat) % size) % 0x8000)
  | .device k => .device k

/-- What answers at `a` under a map. -/
def targetIn (map : List LowRange) (a : Word) : LowTarget :=
  match map with
  | [] => .cell a.toNat
  | r :: rest => if r.first.toNat ≤ a.toNat ∧ a.toNat ≤ r.last.toNat then rangeTarget r a else targetIn rest a

/-- What answers at `a`. -/
def LowBus.target (l : LowBus) (a : Word) : LowTarget := targetIn l.map a

/-- `LowBus.read(addr)` (R56), the byte that a read gives now. -/
def LowBus.read (l : LowBus) (a : Word) : Byte :=
  match l.target a with
  | .cell c => l.ram.read c
  | .device k => Config.deviceRead k l.history a

/-- What a read of `a` leaves: a read of RAM has no side effect, a device sees it (R56, R60). -/
def LowBus.afterRead (l : LowBus) (a : Word) : LowBus :=
  match l.target a with
  | .cell _ => l
  | .device _ => { l with history := l.history ++ [.read a (l.read a)] }

/-- `LowBus.write(addr, v)` (R56). -/
def LowBus.write (a : Word) (v : Byte) (l : LowBus) : LowBus :=
  match l.target a with
  | .cell c => { l with ram := l.ram.write c v }
  | .device _ => { l with history := l.history ++ [.write a v] }

/-- `l` with a RAM cell of its own at `a`, holding `v`. No step does this; it stands for the loading of a program (log 16). -/
def LowBus.place (a : Word) (v : Byte) (l : LowBus) : LowBus :=
  { l with
    map := if l.target a = .cell a.toNat then l.map else ⟨a, a, .ram a.toNat 1⟩ :: l.map
    ram := l.ram.write a.toNat v }

end Sys2Proof.Machine
end

