-- ==== Sys2Proof/Machine/Bus.lean ====
section
/-! DEFINITION. The one address space (20_memory.md R50 to R60) and the bank-switching address decoder (R70 to R75): LowBus below
0x8000, the two program-ROM windows above it, and the mapper's control range. -/

namespace Sys2Proof.Machine

/-- Everything that answers on the bus: the cartridge, its mapper state, and LowBus (R51, R56). -/
structure Bus where
  /-- The cartridge image (R37). -/
  cart : Cartridge
  /-- `loaded_pages` (R36). -/
  pages : Pages
  /-- `LowBus`, 0x0000 to 0x7FFF, with its state (R38, R56). -/
  low : LowBus
deriving DecidableEq, Repr

/-- `translate(address)` (R71), the offset into `prg_rom`; `none` below 0x8000, where R71 does not define it. -/
def translate (p : Pages) (a : Word) : Option Nat :=
  if a.toNat < 0x8000 then none
  else if a.toNat < 0xC000 then some (p.lower * prgPageSize + a.toNat % prgPageSize)
  else some (p.upper * prgPageSize + a.toNat % prgPageSize)

/-- What the bus answers at `a` (R52, R53). -/
def Bus.read (b : Bus) (a : Word) : Byte :=
  match translate b.pages a with
  | some k => b.cart.prgRom.read k
  | none => b.low.read a

/-- What a read of `a` leaves: a read of a window has no side effect (R53, R60). -/
def Bus.afterRead (b : Bus) (a : Word) : Bus :=
  match translate b.pages a with
  | some _ => b
  | none => { b with low := b.low.afterRead a }

/-- The bus after `v` is presented at `a` (R54): LowBus below 0x8000; in the control range a bank selection (R73); at any other
window address nothing (R55). -/
def Bus.write (cfg : Params) (a : Word) (v : Byte) (b : Bus) : Bus :=
  if a.toNat < 0x8000 then { b with low := b.low.write a v }
  else if cfg.ctrlLo.toNat ≤ a.toNat ∧ a.toNat ≤ cfg.ctrlHi.toNat then
    { b with pages := bankSelect cfg.bankSelect a v b.pages b.cart.prgRomPages }
  else b

/-- `Read16(a)` (R58): low byte at `a`, then high byte at `a + 1` modulo 65536. -/
def Bus.read16 (b : Bus) (a : Word) : Word := word ((b.afterRead a).read (a + 1)) (b.read a)

/-- What `Read16(a)` leaves. -/
def Bus.afterRead16 (b : Bus) (a : Word) : Bus := (b.afterRead a).afterRead (a + 1)

/-- Byte `k` of the visible program ROM (R72): the two selected banks one after the other. -/
def Bus.visibleByte (b : Bus) (k : Nat) : Byte :=
  if k < prgPageSize then b.cart.prgRom.read (b.pages.lower * prgPageSize + k)
  else b.cart.prgRom.read (b.pages.upper * prgPageSize + (k - prgPageSize))

/-- The visible program ROM (R72), `prg_rom[lower] ++ prg_rom[upper]`. -/
def Bus.visiblePrg (b : Bus) : List Byte :=
  b.cart.prgRom.slice (b.pages.lower * prgPageSize) prgPageSize
    ++ b.cart.prgRom.slice (b.pages.upper * prgPageSize) prgPageSize

end Sys2Proof.Machine
end

