-- ==== Sys2Proof/Machine/State.lean ====
section
/-! DEFINITION. The machine's state (10_state.md), the reasons a step can stop, and the state after power-on (R40, R300). -/

namespace Sys2Proof.Machine

/-- The seven status flags (R23), each an independent Bool. -/
structure Flags where
  /-- Carry (R25). -/
  c : Bool
  /-- Zero (R24). -/
  z : Bool
  /-- Interrupt-disable (R30). -/
  i : Bool
  /-- Decimal (R29). -/
  d : Bool
  /-- Break, a held flag that never reaches memory (R30). -/
  b : Bool
  /-- Overflow (R26). -/
  v : Bool
  /-- Negative (R24). -/
  n : Bool
deriving DecidableEq, Repr

/-- What `fault` records when it is not `none` (R35, R272): `UnsupportedOpcode(op, pc)`. -/
structure FaultRecord where
  op : Byte
  pc : Word
deriving DecidableEq, Repr

/-- Everything the spec gives the machine (R20 to R39), with the configuration that R39 makes an argument of the step
function (`cfg`, and the cartridge in `bus`). -/
structure State where
  /-- Accumulator (R20). -/
  a : Byte
  /-- Index register X (R20). -/
  x : Byte
  /-- Index register Y (R20). -/
  y : Byte
  /-- Stack pointer into page 1 (R22). -/
  sp : Byte
  /-- Program counter (R21). -/
  pc : Word
  /-- Status flags (R23). -/
  flags : Flags
  /-- `reset_pending` (R33). -/
  resetPending : Bool
  /-- `nmi_pending` (R33). -/
  nmiPending : Bool
  /-- `irq_pending` (R33). -/
  irqPending : Bool
  /-- Sum of the cycle counts of all steps (R34). -/
  cycles : Nat
  /-- The fault record (R35). -/
  fault : Option FaultRecord
  /-- Cartridge, bank selection and LowBus (R36, R37, R38). -/
  bus : Bus
  /-- The parameters of R6 that have no state; nothing changes them (log 1). -/
  cfg : Params
  /-- The bus accesses of the latest step, in order (R85). The MODEL's own field: no rule reads it (log 11). -/
  busTrace : List Access
deriving DecidableEq, Repr

/-- How a step can stop. -/
inductive Fault
  /-- Raised by the instruction `unsupported` (R271), and by every step of a machine that has faulted (R273): the machine stops
  with `UnsupportedOpcode(op, pc)`. `final` is the state the machine is left in, with the fault record set (log 9). Safe: the
  spec gives the machine no further step. -/
  | unsupportedOpcode (op : Byte) (pc : Word) (final : State)
deriving DecidableEq, Repr

/-- Why an instruction has no meaning. -/
inductive Refusal
  /-- Raised by an arm of `exec` whose instruction has no meaning in the model yet. Safe: nothing is claimed of it. No arm
  raises it now. -/
  | notModelled (mnemonic : String)
deriving DecidableEq, Repr

/-- The result of a step or of an instruction. -/
abbrev Result := Host.Outcome State Fault Refusal

/-- The flags after power-on and RESET (R40, R41): `I` is 1, every other flag 0. -/
def resetFlags : Flags where
  c := false
  z := false
  i := true
  d := false
  b := false
  v := false
  n := false

/-- Power-on (R300) with a loaded cartridge and the launch value of `LowBus`: bank selection by `InitPages`, the values of R40,
and PC read through the bus at `VEC_RESET`. -/
def State.powerOn (cfg : Params) (cart : Cartridge) (low : LowBus) : State :=
  let bus : Bus := { cart, pages := initPages cfg.initPages cart.prgRomPages, low }
  { a := 0x00, x := 0x00, y := 0x00, sp := 0xFD
    pc := bus.read16 cfg.vecReset
    flags := resetFlags
    resetPending := false, nmiPending := false, irqPending := false
    cycles := 0
    fault := none
    bus := bus.afterRead16 cfg.vecReset
    cfg
    busTrace := [] }

/-- The machine right after power-on with the reference parameters, the blank cartridge (log 7) and flat RAM with nothing listed
(log 6). -/
def State.reset : State := State.powerOn referenceParams Cartridge.blank (.flat [])

end Sys2Proof.Machine
end

