-- ==== Sys2Proof/Machine/Flags.lean ====
section
/-! DEFINITION. The status byte (10_state.md R27, R28), the derivation of flags (R24 to R26), and the arithmetic that sets them
(42_arithmetic.md R181 to R187, 43_logic_shift.md R204 to R208). Arithmetic is computed in unbounded integers and narrowed at
the end, as R180 says. -/

namespace Sys2Proof.Machine

/-- `SetZN(v)` (R10, R24). -/
def Flags.setZN (v : Byte) (f : Flags) : Flags := { f with z := v == 0, n := v.msb }

/-- `Pack(b4)` (R27): the status byte. Bit 5 is the constant 1, bit 4 the pusher's choice; the held B is not used. -/
def Flags.pack (f : Flags) (b4 : Bool) : Byte :=
  BitVec.ofNat 8 (f.c.toNat + 2 * f.z.toNat + 4 * f.i.toNat + 8 * f.d.toNat + 16 * b4.toNat + 32
    + 64 * f.v.toNat + 128 * f.n.toNat)

/-- `Unpack(v)` (R28): all seven flags from the status byte; bit 5 is ignored. -/
def Flags.unpack (p : Byte) : Flags where
  c := p.getLsbD 0
  z := p.getLsbD 1
  i := p.getLsbD 2
  d := p.getLsbD 3
  b := p.getLsbD 4
  v := p.getLsbD 6
  n := p.getLsbD 7

/-- The value an operation of the accumulator leaves, and the four flags that ADC and SBC write. -/
structure AluResult where
  value : Byte
  c : Bool
  z : Bool
  v : Bool
  n : Bool
deriving DecidableEq, Repr

/-- Overflow of an addition (R181): `a` and `v` agree in bit 7 and the sum `t` does not. -/
def addOverflow (a v : Byte) (t : Nat) : Bool := a.msb == v.msb && a.msb != t.testBit 7

/-- ADC with D = 0 (R181). -/
def adcBinary (a v : Byte) (c : Bool) : AluResult :=
  let t := a.toNat + v.toNat + c.toNat
  { value := BitVec.ofNat 8 t
    c := decide (0xFF < t)
    z := t % 256 == 0
    v := addOverflow a v t
    n := t.testBit 7 }

/-- Both nibbles are in 0..9 (R15). -/
def validBcd (v : Byte) : Bool := decide (v.toNat % 16 ≤ 9) && decide (v.toNat / 16 ≤ 9)

/-- ADC with D = 1, the algorithm of R182. Z is the binary sum's; N and V are sampled between the two digit corrections; C is
recomputed at the end. -/
def adcCorrected (a v : Byte) (c : Bool) : AluResult :=
  let t := a.toNat + v.toNat + c.toNat
  let t1 := if 9 < a.toNat % 16 + v.toNat % 16 + c.toNat then t + 6 else t
  let t2 := if 0x99 < t1 then t1 + 0x60 else t1
  { value := BitVec.ofNat 8 t2
    c := decide (0x99 < t2)
    z := t % 256 == 0
    v := addOverflow a v t1
    n := t1.testBit 7 }

/-- The binary difference `a - v - b` of SBC, an integer in -256..255 (R183), with `b = 1 - C`. -/
def sbcDifference (a v : Byte) (c : Bool) : Int := (a.toNat : Int) - v.toNat - (!c).toNat

/-- SBC with D = 0 (R183). -/
def sbcBinary (a v : Byte) (c : Bool) : AluResult :=
  let t := sbcDifference a v c
  let t8 := BitVec.ofInt 8 t
  { value := t8
    c := decide (0 ≤ t)
    z := t8 == 0
    v := a.msb != t8.msb && a.msb != v.msb
    n := t8.msb }

/-- The accumulator that SBC leaves with D = 1, the algorithm of R184: the two digit corrections of the binary difference. -/
def sbcCorrected (a v : Byte) (c : Bool) : Byte :=
  let t := sbcDifference a v c
  let t1 := if ((a.toNat % 16 : Nat) : Int) - (!c).toNat < ((v.toNat % 16 : Nat) : Int) then t - 6 else t
  let t2 := if t1 < 0 ∨ 0x99 < t1 then t1 - 0x60 else t1
  BitVec.ofInt 8 t2

/-- ADC with D = 1 (R182): the algorithm on valid BCD operands, and on others at the reference value of the parameter
`DecimalNumerics`. At any other value of it A, C, V and N are free on those others; Z is the binary sum's (log 4). -/
def adcDecimal (choice : Choice) (a v : Byte) (c : Bool) : AluResult :=
  match choice with
  | .reference => adcCorrected a v c
  | .other k =>
    if validBcd a && validBcd v then adcCorrected a v c
    else
      let (fc, fv, fn) := Config.decimalSumFlags k a v c
      { value := Config.decimalSum k a v c, c := fc, z := (adcBinary a v c).z, v := fv, n := fn }

/-- SBC with D = 1 (R183, R184): the flags are the binary difference's; A by the algorithm on valid BCD operands, and on others
at the reference value of `DecimalNumerics`. At any other value of it A is free on those others (log 4). -/
def sbcDecimal (choice : Choice) (a v : Byte) (c : Bool) : AluResult :=
  match choice with
  | .reference => { sbcBinary a v c with value := sbcCorrected a v c }
  | .other k =>
    if validBcd a && validBcd v then { sbcBinary a v c with value := sbcCorrected a v c }
    else { sbcBinary a v c with value := Config.decimalDifference k a v c }

/-- ADC under the flags `f` (R181, R182). -/
def adc (choice : Choice) (a v : Byte) (f : Flags) : AluResult :=
  if f.d then adcDecimal choice a v f.c else adcBinary a v f.c

/-- SBC under the flags `f` (R183, R184). -/
def sbc (choice : Choice) (a v : Byte) (f : Flags) : AluResult :=
  if f.d then sbcDecimal choice a v f.c else sbcBinary a v f.c

/-- The flags after ADC or SBC: C, Z, V and N are written, on both paths (R181, R183). -/
def Flags.ofAlu (r : AluResult) (f : Flags) : Flags := { f with c := r.c, z := r.z, v := r.v, n := r.n }

/-- The flags after comparing register `r` with `v` (R185 to R187): C is the unsigned `r >= v`, Z and N are the difference's. -/
def Flags.compare (r v : Byte) (f : Flags) : Flags :=
  { f with c := decide (v.toNat ≤ r.toNat) }.setZN (r - v)

/-- The flags after BIT (R204): Z from `A & v`, N and V from bits 7 and 6 of `v`. -/
def Flags.bitTest (a v : Byte) (f : Flags) : Flags :=
  { f with z := (a &&& v) == 0, n := v.getLsbD 7, v := v.getLsbD 6 }

/-- What a shift, rotate, increment or decrement makes of its operand: the value written back, and the flags. -/
abbrev Modified := Byte × Flags

/-- ASL (R205). -/
def asl (v : Byte) (f : Flags) : Modified :=
  let r := v <<< 1
  (r, { f with c := v.getLsbD 7 }.setZN r)

/-- LSR (R206). -/
def lsr (v : Byte) (f : Flags) : Modified :=
  let r := v >>> 1
  (r, { f with c := v.getLsbD 0 }.setZN r)

/-- ROL (R207): `c` is the carry before the instruction. -/
def rol (v : Byte) (f : Flags) : Modified :=
  let r := (v <<< 1) ||| (BitVec.ofBool f.c).setWidth 8
  (r, { f with c := v.getLsbD 7 }.setZN r)

/-- ROR (R208): `c` is the carry before the instruction. -/
def ror (v : Byte) (f : Flags) : Modified :=
  let r := (v >>> 1) ||| ((BitVec.ofBool f.c).setWidth 8 <<< 7)
  (r, { f with c := v.getLsbD 0 }.setZN r)

/-- INC (R188): Z and N only. -/
def increment (v : Byte) (f : Flags) : Modified := (v + 1, f.setZN (v + 1))

/-- DEC (R191): Z and N only. -/
def decrement (v : Byte) (f : Flags) : Modified := (v - 1, f.setZN (v - 1))

end Sys2Proof.Machine
end

