-- ==== Sys2Proof/Machine/Ops.lean ====
section
/-! DEFINITION. The shared operations on registers, memory, the stack and the cycle counter, entering and leaving an interrupt,
and the fault (00_scope.md R9, 10_state.md R31 to R35, 60_exceptions.md R271 to R279). -/

namespace Sys2Proof.Machine

/-- What `MemRead(a, 1)` leaves (R53, R60): the access made on the bus, and recorded (R85; log 11). -/
def State.look (a : Word) (s : State) : State :=
  { s with bus := s.bus.afterRead a, busTrace := s.busTrace ++ [.read a (s.bus.read a)] }

/-- `MemRead(a, 1)` (R53): the byte, and the state after the access. -/
def memRead (a : Word) (s : State) : Byte × State := (s.bus.read a, s.look a)

/-- `MemWrite(a, 1, v)` (R54), recorded. -/
def memWrite (a : Word) (v : Byte) (s : State) : State :=
  { s with bus := s.bus.write s.cfg a v, busTrace := s.busTrace ++ [.write a v] }

/-- `Read16(a)` (R58): the low byte, then the high byte at `a + 1` modulo 65536. -/
def read16 (a : Word) (s : State) : Word × State :=
  let (l, s) := memRead a s
  let (h, s) := memRead (a + 1) s
  (word h l, s)

/-- `0x0100 + SP` (R22). -/
def stackAddr (sp : Byte) : Word := 0x0100 + zext sp

/-- `Push(v)` (R31): the write uses SP before the decrement, which wraps inside the stack page. -/
def push (v : Byte) (s : State) : State :=
  let s := memWrite (stackAddr s.sp) v s
  { s with sp := s.sp - 1 }

/-- `Pop()` (R32): SP is incremented, wrapping inside the stack page, and the read uses the new SP. -/
def pop (s : State) : Byte × State :=
  let s := { s with sp := s.sp + 1 }
  memRead (stackAddr s.sp) s

/-- A 16-bit push: high byte first (R32). -/
def push16 (w : Word) (s : State) : State := push (lo w) (push (hi w) s)

/-- A 16-bit pop: low byte first (R32). -/
def pop16 (s : State) : Word × State :=
  let (l, s) := pop s
  let (h, s) := pop s
  (word h l, s)

/-- `PC <- PC + n` modulo 65536 (R21, R103). -/
def State.advance (n : Nat) (s : State) : State := { s with pc := s.pc + BitVec.ofNat 16 n }

/-- `cycles <- cycles + n` (R34, R307). -/
def State.addCycles (n : Nat) (s : State) : State := { s with cycles := s.cycles + n }

/-- The cycle count of an instruction that is no branch (R308, R309): the base count, and one more when its index addition
crossed a page and its opcode pays for that (R147). -/
def State.charge (op : Byte) (crossed : Bool) (s : State) : State :=
  s.addCycles (baseCycles s.cfg.baseCycles op + if crossed && paysPageCross op then 1 else 0)

/-- Entering a handler, the one operation of BRK (R255), IRQ and NMI (R279): push `ret` high byte first, push the status byte
with `brk` in bit 4, set I, and go through the vector. BRK also sets the held B, between the two pushes, as R255 writes it;
an interrupt leaves B (R279). -/
def enterHandler (ret : Word) (brk : Bool) (vec : Word) (s : State) : State :=
  let s := push16 ret s
  let s := { s with flags.b := s.flags.b || brk }
  let s := push (s.flags.pack brk) s
  let s := { s with flags.i := true }
  let (target, s) := read16 vec s
  { s with pc := target }

/-- Returning from a handler, the operation of RTI (R256): the status byte, then the address, without increment. -/
def leaveHandler (s : State) : State :=
  let (p, s) := pop s
  let s := { s with flags := Flags.unpack p }
  let (w, s) := pop16 s
  { s with pc := w }

/-- `InterruptEntry(vec)` (R279), the whole step of an IRQ or NMI: the stacked PC is the instruction not yet fetched. -/
def interruptEntry (vec : Word) (s : State) : State :=
  (enterHandler s.pc false vec s).addCycles sequenceCycles

/-- The RESET sequence (R278, R301): the register file at the values of R40, the latches cleared, PC through the vector. It
writes no memory. -/
def resetSequence (s : State) : State :=
  let s := { s with
    a := 0x00, x := 0x00, y := 0x00, sp := 0xFD, flags := resetFlags
    resetPending := false, nmiPending := false, irqPending := false }
  let (target, s) := read16 s.cfg.vecReset s
  { s with pc := target }.addCycles sequenceCycles

/-- `raise UnsupportedOpcode(op, pc0)` (R271): the record is set, PC stays at the opcode, nothing else changes, no cycles are
counted, and the step's result is the error. -/
def raiseUnsupported (op : Byte) (s : State) : Result :=
  .fault (.unsupportedOpcode op s.pc { s with fault := some ⟨op, s.pc⟩ })

end Sys2Proof.Machine
end

