-- ==== Sys2Proof/Machine/Operands.lean ====
section
/-! DEFINITION. The addressing modes (40_addressing_modes.md R130 to R147): what each resolves to and which accesses it makes,
the read accessor `M`, the write accessor `WriteBack`, and the shapes of instruction that use them. -/

namespace Sys2Proof.Machine

/-- What a memory mode resolves to (R130): the effective address and the page-cross flag. -/
structure Resolved where
  ea : Word
  crossed : Bool
deriving DecidableEq, Repr

/-- An index added to a 16-bit base, wrapping at 65536 (R138, R139, R144); `crossed` compares the high bytes (R140). -/
def indexed (base : Word) (index : Byte) : Resolved :=
  let ea := base + zext index
  { ea, crossed := !samePage base ea }

/-- A 16-bit pointer in the zero page: the low byte at `z`, the high byte at `z + 1` modulo 256 (R143, R144). -/
def readPointer (z : Byte) (s : State) : Word × State :=
  let (l, s) := memRead (zext z) s
  let (h, s) := memRead (zext (z + 1)) s
  (word h l, s)

/-- Resolving a memory mode (R134 to R139, R143, R144), with the pointer reads it makes. -/
def resolve (m : MemMode) (s : State) : Resolved × State :=
  match m with
  | .zp b => (⟨zext b, false⟩, s)
  | .zpx b => (⟨zext (b + s.x), false⟩, s)
  | .zpy b => (⟨zext (b + s.y), false⟩, s)
  | .abs w => (⟨w, false⟩, s)
  | .abx w => (indexed w s.x, s)
  | .aby w => (indexed w s.y, s)
  | .izx b =>
    let (ea, s) := readPointer (b + s.x) s
    (⟨ea, false⟩, s)
  | .izy b =>
    let (base, s) := readPointer b s
    (indexed base s.y, s)

/-- The address of the second pointer byte of IND (R142): on the pointer's own page when `JMP_IND_PAGE_WRAP` is true. -/
def indHighAddr (wrap : Bool) (ptr : Word) : Word := if wrap then word (hi ptr) (lo ptr + 1) else ptr + 1

/-- Resolving IND (R142): the 16-bit content of the pointer, low byte first. -/
def resolveInd (ptr : Word) (s : State) : Word × State :=
  let (l, s) := memRead ptr s
  let (h, s) := memRead (indHighAddr s.cfg.jmpIndPageWrap ptr) s
  (word h l, s)

/-- A readable operand: immediate (R133), or a memory mode. -/
inductive Source
  | imm (v : Byte)
  | mem (m : MemMode)
deriving DecidableEq, Repr

/-- The operand of a read-modify-write instruction: the accumulator (R132), or a memory mode. -/
inductive Target
  | acc
  | mem (m : MemMode)
deriving DecidableEq, Repr

/-- The operand of the table row that a source stands for. -/
def Source.operand (src : Source) : Operand :=
  match src with
  | .imm v => .imm v
  | .mem m => .mem m

/-- The operand of the table row that a target stands for. -/
def Target.operand (tgt : Target) : Operand :=
  match tgt with
  | .acc => .acc
  | .mem m => .mem m

/-- The read accessor's result (R145): the operand, the page-cross flag, and the state after the reads. -/
structure Fetched where
  value : Byte
  crossed : Bool
  state : State
deriving DecidableEq, Repr

/-- The read accessor `M` (R145): the operand is read exactly once. -/
def Source.fetch (src : Source) (s : State) : Fetched :=
  match src with
  | .imm v => ⟨v, false, s⟩
  | .mem m =>
    let (r, s) := resolve m s
    let (v, s) := memRead r.ea s
    ⟨v, r.crossed, s⟩

/-- A read-class instruction (R15, R145): PC past the instruction, the operand read once, then the mnemonic's rule `f`. -/
def readInstr (op : Byte) (src : Source) (f : Byte → State → State) (s : State) : State :=
  let r := src.fetch (s.advance (1 + src.operand.width))
  (f r.value r.state).charge op r.crossed

/-- A store-class instruction (R164 to R166): nothing is read at `ea`, and `v` is written there once. -/
def storeInstr (op : Byte) (m : MemMode) (v : State → Byte) (s : State) : State :=
  let (r, s) := resolve m (s.advance (1 + (Operand.mem m).width))
  (memWrite r.ea (v s) s).charge op r.crossed

/-- A read-modify-write instruction (R146, R188, R191, R205 to R208): one read, the flags, then one write to the same `ea`. -/
def modifyInstr (op : Byte) (tgt : Target) (f : Byte → Flags → Modified) (s : State) : State :=
  let s := s.advance (1 + tgt.operand.width)
  match tgt with
  | .acc =>
    let (r, fl) := f s.a s.flags
    { s with flags := fl, a := r }.charge op false
  | .mem m =>
    let (e, s) := resolve m s
    let (v, s) := memRead e.ea s
    let (r, fl) := f v s.flags
    (memWrite e.ea r { s with flags := fl }).charge op e.crossed

/-- An instruction of the implied mode (R131): PC past the opcode, then the mnemonic's rule `f`. -/
def impliedInstr (op : Byte) (f : State → State) (s : State) : State := (f (s.advance 1)).charge op false

end Sys2Proof.Machine
end

