-- ==== Sys2Proof/Machine/LoadStore.lean ====
section
/-! DEFINITION. Loads, stores and register transfers (41_load_store_transfer.md R160 to R172). -/

namespace Sys2Proof.Machine

/-- A value written to A sets Z and N (R160, R161). -/
def loadA (v : Byte) (s : State) : State := { s with a := v, flags := s.flags.setZN v }

/-- A value written to X sets Z and N (R160, R162). -/
def loadX (v : Byte) (s : State) : State := { s with x := v, flags := s.flags.setZN v }

/-- A value written to Y sets Z and N (R160, R163). -/
def loadY (v : Byte) (s : State) : State := { s with y := v, flags := s.flags.setZN v }

/-- LDA #v (R161, R133). -/
def execLdaImm (v : Byte) (s : State) : Result := .next (readInstr 0xA9 (.imm v) loadA s)

/-- LDA zp (R161, R134). -/
def execLdaZp (zp : Byte) (s : State) : Result := .next (readInstr 0xA5 (.mem (.zp zp)) loadA s)

/-- LDA zp,X (R161, R136). -/
def execLdaZpx (zp : Byte) (s : State) : Result := .next (readInstr 0xB5 (.mem (.zpx zp)) loadA s)

/-- LDA addr (R161, R135). -/
def execLdaAbs (addr : Word) (s : State) : Result := .next (readInstr 0xAD (.mem (.abs addr)) loadA s)

/-- LDA addr,X (R161, R138). -/
def execLdaAbx (addr : Word) (s : State) : Result := .next (readInstr 0xBD (.mem (.abx addr)) loadA s)

/-- LDA addr,Y (R161, R139). -/
def execLdaAby (addr : Word) (s : State) : Result := .next (readInstr 0xB9 (.mem (.aby addr)) loadA s)

/-- LDA (zp,X) (R161, R143). -/
def execLdaIzx (zp : Byte) (s : State) : Result := .next (readInstr 0xA1 (.mem (.izx zp)) loadA s)

/-- LDA (zp),Y (R161, R144). -/
def execLdaIzy (zp : Byte) (s : State) : Result := .next (readInstr 0xB1 (.mem (.izy zp)) loadA s)

/-- LDX #v (R162, R133). -/
def execLdxImm (v : Byte) (s : State) : Result := .next (readInstr 0xA2 (.imm v) loadX s)

/-- LDX zp (R162, R134). -/
def execLdxZp (zp : Byte) (s : State) : Result := .next (readInstr 0xA6 (.mem (.zp zp)) loadX s)

/-- LDX zp,Y (R162, R137). -/
def execLdxZpy (zp : Byte) (s : State) : Result := .next (readInstr 0xB6 (.mem (.zpy zp)) loadX s)

/-- LDX addr (R162, R135). -/
def execLdxAbs (addr : Word) (s : State) : Result := .next (readInstr 0xAE (.mem (.abs addr)) loadX s)

/-- LDX addr,Y (R162, R139). -/
def execLdxAby (addr : Word) (s : State) : Result := .next (readInstr 0xBE (.mem (.aby addr)) loadX s)

/-- LDY #v (R163, R133). -/
def execLdyImm (v : Byte) (s : State) : Result := .next (readInstr 0xA0 (.imm v) loadY s)

/-- LDY zp (R163, R134). -/
def execLdyZp (zp : Byte) (s : State) : Result := .next (readInstr 0xA4 (.mem (.zp zp)) loadY s)

/-- LDY zp,X (R163, R136). -/
def execLdyZpx (zp : Byte) (s : State) : Result := .next (readInstr 0xB4 (.mem (.zpx zp)) loadY s)

/-- LDY addr (R163, R135). -/
def execLdyAbs (addr : Word) (s : State) : Result := .next (readInstr 0xAC (.mem (.abs addr)) loadY s)

/-- LDY addr,X (R163, R138). -/
def execLdyAbx (addr : Word) (s : State) : Result := .next (readInstr 0xBC (.mem (.abx addr)) loadY s)

/-- STA zp (R164, R134). -/
def execStaZp (zp : Byte) (s : State) : Result := .next (storeInstr 0x85 (.zp zp) State.a s)

/-- STA zp,X (R164, R136). -/
def execStaZpx (zp : Byte) (s : State) : Result := .next (storeInstr 0x95 (.zpx zp) State.a s)

/-- STA addr (R164, R135). -/
def execStaAbs (addr : Word) (s : State) : Result := .next (storeInstr 0x8D (.abs addr) State.a s)

/-- STA addr,X (R164, R138). -/
def execStaAbx (addr : Word) (s : State) : Result := .next (storeInstr 0x9D (.abx addr) State.a s)

/-- STA addr,Y (R164, R139). -/
def execStaAby (addr : Word) (s : State) : Result := .next (storeInstr 0x99 (.aby addr) State.a s)

/-- STA (zp,X) (R164, R143). -/
def execStaIzx (zp : Byte) (s : State) : Result := .next (storeInstr 0x81 (.izx zp) State.a s)

/-- STA (zp),Y (R164, R144). -/
def execStaIzy (zp : Byte) (s : State) : Result := .next (storeInstr 0x91 (.izy zp) State.a s)

/-- STX zp (R165, R134). -/
def execStxZp (zp : Byte) (s : State) : Result := .next (storeInstr 0x86 (.zp zp) State.x s)

/-- STX zp,Y (R165, R137). -/
def execStxZpy (zp : Byte) (s : State) : Result := .next (storeInstr 0x96 (.zpy zp) State.x s)

/-- STX addr (R165, R135). -/
def execStxAbs (addr : Word) (s : State) : Result := .next (storeInstr 0x8E (.abs addr) State.x s)

/-- STY zp (R166, R134). -/
def execStyZp (zp : Byte) (s : State) : Result := .next (storeInstr 0x84 (.zp zp) State.y s)

/-- STY zp,X (R166, R136). -/
def execStyZpx (zp : Byte) (s : State) : Result := .next (storeInstr 0x94 (.zpx zp) State.y s)

/-- STY addr (R166, R135). -/
def execStyAbs (addr : Word) (s : State) : Result := .next (storeInstr 0x8C (.abs addr) State.y s)

/-- TAX (R167, R131). -/
def execTax (s : State) : Result := .next (impliedInstr 0xAA (fun s => loadX s.a s) s)

/-- TAY (R168, R131). -/
def execTay (s : State) : Result := .next (impliedInstr 0xA8 (fun s => loadY s.a s) s)

/-- TXA (R169, R131). -/
def execTxa (s : State) : Result := .next (impliedInstr 0x8A (fun s => loadA s.x s) s)

/-- TYA (R170, R131). -/
def execTya (s : State) : Result := .next (impliedInstr 0x98 (fun s => loadA s.y s) s)

/-- TXS (R171, R131). -/
def execTxs (s : State) : Result := .next (impliedInstr 0x9A (fun s => { s with sp := s.x }) s)

/-- TSX (R172, R131). -/
def execTsx (s : State) : Result := .next (impliedInstr 0xBA (fun s => loadX s.sp s) s)

end Sys2Proof.Machine
end

