-- ==== Sys2Proof/Machine/Arithmetic.lean ====
section
/-! DEFINITION. Arithmetic, compares, increments and decrements (42_arithmetic.md R180 to R193). -/

namespace Sys2Proof.Machine

/-- A and the four flags of an addition or subtraction (R181, R183). -/
def writeAlu (r : AluResult) (s : State) : State := { s with a := r.value, flags := s.flags.ofAlu r }

/-- ADC's rule (R181, R182). -/
def addToA (v : Byte) (s : State) : State := writeAlu (adc s.cfg.decimal s.a v s.flags) s

/-- SBC's rule (R183, R184). -/
def subFromA (v : Byte) (s : State) : State := writeAlu (sbc s.cfg.decimal s.a v s.flags) s

/-- CMP's rule (R185). -/
def compareA (v : Byte) (s : State) : State := { s with flags := s.flags.compare s.a v }

/-- CPX's rule (R186). -/
def compareX (v : Byte) (s : State) : State := { s with flags := s.flags.compare s.x v }

/-- CPY's rule (R187). -/
def compareY (v : Byte) (s : State) : State := { s with flags := s.flags.compare s.y v }

/-- ADC #v (R181, R133). -/
def execAdcImm (v : Byte) (s : State) : Result := .next (readInstr 0x69 (.imm v) addToA s)

/-- ADC zp (R181, R134). -/
def execAdcZp (zp : Byte) (s : State) : Result := .next (readInstr 0x65 (.mem (.zp zp)) addToA s)

/-- ADC zp,X (R181, R136). -/
def execAdcZpx (zp : Byte) (s : State) : Result := .next (readInstr 0x75 (.mem (.zpx zp)) addToA s)

/-- ADC addr (R181, R135). -/
def execAdcAbs (addr : Word) (s : State) : Result := .next (readInstr 0x6D (.mem (.abs addr)) addToA s)

/-- ADC addr,X (R181, R138). -/
def execAdcAbx (addr : Word) (s : State) : Result := .next (readInstr 0x7D (.mem (.abx addr)) addToA s)

/-- ADC addr,Y (R181, R139). -/
def execAdcAby (addr : Word) (s : State) : Result := .next (readInstr 0x79 (.mem (.aby addr)) addToA s)

/-- ADC (zp,X) (R181, R143). -/
def execAdcIzx (zp : Byte) (s : State) : Result := .next (readInstr 0x61 (.mem (.izx zp)) addToA s)

/-- ADC (zp),Y (R181, R144). -/
def execAdcIzy (zp : Byte) (s : State) : Result := .next (readInstr 0x71 (.mem (.izy zp)) addToA s)

/-- SBC #v (R183, R133). -/
def execSbcImm (v : Byte) (s : State) : Result := .next (readInstr 0xE9 (.imm v) subFromA s)

/-- SBC zp (R183, R134). -/
def execSbcZp (zp : Byte) (s : State) : Result := .next (readInstr 0xE5 (.mem (.zp zp)) subFromA s)

/-- SBC zp,X (R183, R136). -/
def execSbcZpx (zp : Byte) (s : State) : Result := .next (readInstr 0xF5 (.mem (.zpx zp)) subFromA s)

/-- SBC addr (R183, R135). -/
def execSbcAbs (addr : Word) (s : State) : Result := .next (readInstr 0xED (.mem (.abs addr)) subFromA s)

/-- SBC addr,X (R183, R138). -/
def execSbcAbx (addr : Word) (s : State) : Result := .next (readInstr 0xFD (.mem (.abx addr)) subFromA s)

/-- SBC addr,Y (R183, R139). -/
def execSbcAby (addr : Word) (s : State) : Result := .next (readInstr 0xF9 (.mem (.aby addr)) subFromA s)

/-- SBC (zp,X) (R183, R143). -/
def execSbcIzx (zp : Byte) (s : State) : Result := .next (readInstr 0xE1 (.mem (.izx zp)) subFromA s)

/-- SBC (zp),Y (R183, R144). -/
def execSbcIzy (zp : Byte) (s : State) : Result := .next (readInstr 0xF1 (.mem (.izy zp)) subFromA s)

/-- CMP #v (R185, R133). -/
def execCmpImm (v : Byte) (s : State) : Result := .next (readInstr 0xC9 (.imm v) compareA s)

/-- CMP zp (R185, R134). -/
def execCmpZp (zp : Byte) (s : State) : Result := .next (readInstr 0xC5 (.mem (.zp zp)) compareA s)

/-- CMP zp,X (R185, R136). -/
def execCmpZpx (zp : Byte) (s : State) : Result := .next (readInstr 0xD5 (.mem (.zpx zp)) compareA s)

/-- CMP addr (R185, R135). -/
def execCmpAbs (addr : Word) (s : State) : Result := .next (readInstr 0xCD (.mem (.abs addr)) compareA s)

/-- CMP addr,X (R185, R138). -/
def execCmpAbx (addr : Word) (s : State) : Result := .next (readInstr 0xDD (.mem (.abx addr)) compareA s)

/-- CMP addr,Y (R185, R139). -/
def execCmpAby (addr : Word) (s : State) : Result := .next (readInstr 0xD9 (.mem (.aby addr)) compareA s)

/-- CMP (zp,X) (R185, R143). -/
def execCmpIzx (zp : Byte) (s : State) : Result := .next (readInstr 0xC1 (.mem (.izx zp)) compareA s)

/-- CMP (zp),Y (R185, R144). -/
def execCmpIzy (zp : Byte) (s : State) : Result := .next (readInstr 0xD1 (.mem (.izy zp)) compareA s)

/-- CPX #v (R186, R133). -/
def execCpxImm (v : Byte) (s : State) : Result := .next (readInstr 0xE0 (.imm v) compareX s)

/-- CPX zp (R186, R134). -/
def execCpxZp (zp : Byte) (s : State) : Result := .next (readInstr 0xE4 (.mem (.zp zp)) compareX s)

/-- CPX addr (R186, R135). -/
def execCpxAbs (addr : Word) (s : State) : Result := .next (readInstr 0xEC (.mem (.abs addr)) compareX s)

/-- CPY #v (R187, R133). -/
def execCpyImm (v : Byte) (s : State) : Result := .next (readInstr 0xC0 (.imm v) compareY s)

/-- CPY zp (R187, R134). -/
def execCpyZp (zp : Byte) (s : State) : Result := .next (readInstr 0xC4 (.mem (.zp zp)) compareY s)

/-- CPY addr (R187, R135). -/
def execCpyAbs (addr : Word) (s : State) : Result := .next (readInstr 0xCC (.mem (.abs addr)) compareY s)

/-- INC zp (R188, R134). -/
def execIncZp (zp : Byte) (s : State) : Result := .next (modifyInstr 0xE6 (.mem (.zp zp)) increment s)

/-- INC zp,X (R188, R136). -/
def execIncZpx (zp : Byte) (s : State) : Result := .next (modifyInstr 0xF6 (.mem (.zpx zp)) increment s)

/-- INC addr (R188, R135). -/
def execIncAbs (addr : Word) (s : State) : Result := .next (modifyInstr 0xEE (.mem (.abs addr)) increment s)

/-- INC addr,X (R188, R138). -/
def execIncAbx (addr : Word) (s : State) : Result := .next (modifyInstr 0xFE (.mem (.abx addr)) increment s)

/-- INX (R189, R131). -/
def execInx (s : State) : Result := .next (impliedInstr 0xE8 (fun s => loadX (s.x + 1) s) s)

/-- INY (R190, R131). -/
def execIny (s : State) : Result := .next (impliedInstr 0xC8 (fun s => loadY (s.y + 1) s) s)

/-- DEC zp (R191, R134). -/
def execDecZp (zp : Byte) (s : State) : Result := .next (modifyInstr 0xC6 (.mem (.zp zp)) decrement s)

/-- DEC zp,X (R191, R136). -/
def execDecZpx (zp : Byte) (s : State) : Result := .next (modifyInstr 0xD6 (.mem (.zpx zp)) decrement s)

/-- DEC addr (R191, R135). -/
def execDecAbs (addr : Word) (s : State) : Result := .next (modifyInstr 0xCE (.mem (.abs addr)) decrement s)

/-- DEC addr,X (R191, R138). -/
def execDecAbx (addr : Word) (s : State) : Result := .next (modifyInstr 0xDE (.mem (.abx addr)) decrement s)

/-- DEX (R192, R131). -/
def execDex (s : State) : Result := .next (impliedInstr 0xCA (fun s => loadX (s.x - 1) s) s)

/-- DEY (R193, R131). -/
def execDey (s : State) : Result := .next (impliedInstr 0x88 (fun s => loadY (s.y - 1) s) s)

end Sys2Proof.Machine
end

