-- ==== Sys2Proof/Machine/ControlFlow.lean ====
section
/-! DEFINITION. Branches, jumps, subroutines, BRK and RTI (45_control_flow.md R240 to R256), and the unsupported bytes (R108). -/

namespace Sys2Proof.Machine

/-- The branch algorithm (R240) and its cycle count (R249): a taken branch costs one more cycle, or two when `pcn` and the
target are on different pages. -/
def branch (op : Byte) (cond : Bool) (rel : Byte) (s : State) : State :=
  let s := s.advance 2
  let target := s.pc + sext16 rel
  if cond then
    { s with pc := target }.addCycles (baseCycles s.cfg.baseCycles op + if samePage s.pc target then 1 else 2)
  else s.addCycles (baseCycles s.cfg.baseCycles op)

/-- JMP absolute (R250): nothing is read at the target. -/
def jumpAbs (op : Byte) (addr : Word) (s : State) : State :=
  { s.advance 3 with pc := addr }.charge op false

/-- JMP indirect (R250, R142). -/
def jumpInd (op : Byte) (ptr : Word) (s : State) : State :=
  let (ea, s) := resolveInd ptr (s.advance 3)
  { s with pc := ea }.charge op false

/-- JSR (R251): the address of its own last byte, `pcn - 1`, is pushed, high byte first. -/
def jumpSubroutine (op : Byte) (addr : Word) (s : State) : State :=
  let s := s.advance 3
  { push16 (s.pc - 1) s with pc := addr }.charge op false

/-- RTS's rule (R252): one past the popped address. -/
def returnFromSubroutine (s : State) : State :=
  let (w, s) := pop16 s
  { s with pc := w + 1 }

/-- The instruction of the UNSUPPORTED rows (R108, R271). -/
def execUnsupported (op : Byte) (s : State) : Result := raiseUnsupported op s

/-- BCC rel (R241, R141). -/
def execBcc (rel : Byte) (s : State) : Result := .next (branch 0x90 (!s.flags.c) rel s)

/-- BCS rel (R242, R141). -/
def execBcs (rel : Byte) (s : State) : Result := .next (branch 0xB0 (s.flags.c) rel s)

/-- BEQ rel (R243, R141). -/
def execBeq (rel : Byte) (s : State) : Result := .next (branch 0xF0 (s.flags.z) rel s)

/-- BNE rel (R244, R141). -/
def execBne (rel : Byte) (s : State) : Result := .next (branch 0xD0 (!s.flags.z) rel s)

/-- BMI rel (R245, R141). -/
def execBmi (rel : Byte) (s : State) : Result := .next (branch 0x30 (s.flags.n) rel s)

/-- BPL rel (R246, R141). -/
def execBpl (rel : Byte) (s : State) : Result := .next (branch 0x10 (!s.flags.n) rel s)

/-- BVC rel (R247, R141). -/
def execBvc (rel : Byte) (s : State) : Result := .next (branch 0x50 (!s.flags.v) rel s)

/-- BVS rel (R248, R141). -/
def execBvs (rel : Byte) (s : State) : Result := .next (branch 0x70 (s.flags.v) rel s)

/-- JMP addr (R250, R135). -/
def execJmpAbs (addr : Word) (s : State) : Result := .next (jumpAbs 0x4C addr s)

/-- JMP (ptr) (R250, R142). -/
def execJmpInd (ptr : Word) (s : State) : Result := .next (jumpInd 0x6C ptr s)

/-- JSR addr (R251, R135). -/
def execJsr (addr : Word) (s : State) : Result := .next (jumpSubroutine 0x20 addr s)

/-- RTS (R252, R131). -/
def execRts (s : State) : Result := .next (impliedInstr 0x60 returnFromSubroutine s)

/-- BRK (R255, R131). -/
def execBrk (s : State) : Result := .next (impliedInstr 0x00 (fun s => enterHandler (s.pc + 1) true s.cfg.vecIrq s) s)

/-- RTI (R256, R131). -/
def execRti (s : State) : Result := .next (impliedInstr 0x40 leaveHandler s)

end Sys2Proof.Machine
end

