-- ==== Sys2Proof/Machine/FlagStack.lean ====
section
/-! DEFINITION. Flag instructions, NOP and stack instructions (44_flags_stack_nop.md R220 to R232). -/

namespace Sys2Proof.Machine

/-- PLA's rule (R230). -/
def pullA (s : State) : State :=
  let (v, s) := pop s
  loadA v s

/-- PLP's rule (R232): all seven flags. -/
def pullStatus (s : State) : State :=
  let (p, s) := pop s
  { s with flags := Flags.unpack p }

/-- CLC (R220, R131). -/
def execClc (s : State) : Result := .next (impliedInstr 0x18 (fun s => { s with flags.c := false }) s)

/-- SEC (R221, R131). -/
def execSec (s : State) : Result := .next (impliedInstr 0x38 (fun s => { s with flags.c := true }) s)

/-- CLI (R222, R131). -/
def execCli (s : State) : Result := .next (impliedInstr 0x58 (fun s => { s with flags.i := false }) s)

/-- SEI (R223, R131). -/
def execSei (s : State) : Result := .next (impliedInstr 0x78 (fun s => { s with flags.i := true }) s)

/-- CLD (R224, R131). -/
def execCld (s : State) : Result := .next (impliedInstr 0xD8 (fun s => { s with flags.d := false }) s)

/-- SED (R225, R131). -/
def execSed (s : State) : Result := .next (impliedInstr 0xF8 (fun s => { s with flags.d := true }) s)

/-- CLV (R226, R131). -/
def execClv (s : State) : Result := .next (impliedInstr 0xB8 (fun s => { s with flags.v := false }) s)

/-- NOP (R227, R131). -/
def execNop (s : State) : Result := .next (impliedInstr 0xEA (fun s => s) s)

/-- PHA (R229, R131). -/
def execPha (s : State) : Result := .next (impliedInstr 0x48 (fun s => push s.a s) s)

/-- PLA (R230, R131). -/
def execPla (s : State) : Result := .next (impliedInstr 0x68 pullA s)

/-- PHP (R231, R131). -/
def execPhp (s : State) : Result := .next (impliedInstr 0x08 (fun s => push (s.flags.pack true) s) s)

/-- PLP (R232, R131). -/
def execPlp (s : State) : Result := .next (impliedInstr 0x28 pullStatus s)

end Sys2Proof.Machine
end

