-- ==== Sys2Proof/Machine/Logic.lean ====
section
/-! DEFINITION. Logic, bit test, shifts and rotates (43_logic_shift.md R200 to R208). -/

namespace Sys2Proof.Machine

/-- AND's rule (R201). -/
def andA (v : Byte) (s : State) : State := loadA (s.a &&& v) s

/-- ORA's rule (R202). -/
def orA (v : Byte) (s : State) : State := loadA (s.a ||| v) s

/-- EOR's rule (R203). -/
def xorA (v : Byte) (s : State) : State := loadA (s.a ^^^ v) s

/-- BIT's rule (R204): A and C are not written. -/
def bitTestA (v : Byte) (s : State) : State := { s with flags := s.flags.bitTest s.a v }

/-- AND #v (R201, R133). -/
def execAndImm (v : Byte) (s : State) : Result := .next (readInstr 0x29 (.imm v) andA s)

/-- AND zp (R201, R134). -/
def execAndZp (zp : Byte) (s : State) : Result := .next (readInstr 0x25 (.mem (.zp zp)) andA s)

/-- AND zp,X (R201, R136). -/
def execAndZpx (zp : Byte) (s : State) : Result := .next (readInstr 0x35 (.mem (.zpx zp)) andA s)

/-- AND addr (R201, R135). -/
def execAndAbs (addr : Word) (s : State) : Result := .next (readInstr 0x2D (.mem (.abs addr)) andA s)

/-- AND addr,X (R201, R138). -/
def execAndAbx (addr : Word) (s : State) : Result := .next (readInstr 0x3D (.mem (.abx addr)) andA s)

/-- AND addr,Y (R201, R139). -/
def execAndAby (addr : Word) (s : State) : Result := .next (readInstr 0x39 (.mem (.aby addr)) andA s)

/-- AND (zp,X) (R201, R143). -/
def execAndIzx (zp : Byte) (s : State) : Result := .next (readInstr 0x21 (.mem (.izx zp)) andA s)

/-- AND (zp),Y (R201, R144). -/
def execAndIzy (zp : Byte) (s : State) : Result := .next (readInstr 0x31 (.mem (.izy zp)) andA s)

/-- ORA #v (R202, R133). -/
def execOraImm (v : Byte) (s : State) : Result := .next (readInstr 0x09 (.imm v) orA s)

/-- ORA zp (R202, R134). -/
def execOraZp (zp : Byte) (s : State) : Result := .next (readInstr 0x05 (.mem (.zp zp)) orA s)

/-- ORA zp,X (R202, R136). -/
def execOraZpx (zp : Byte) (s : State) : Result := .next (readInstr 0x15 (.mem (.zpx zp)) orA s)

/-- ORA addr (R202, R135). -/
def execOraAbs (addr : Word) (s : State) : Result := .next (readInstr 0x0D (.mem (.abs addr)) orA s)

/-- ORA addr,X (R202, R138). -/
def execOraAbx (addr : Word) (s : State) : Result := .next (readInstr 0x1D (.mem (.abx addr)) orA s)

/-- ORA addr,Y (R202, R139). -/
def execOraAby (addr : Word) (s : State) : Result := .next (readInstr 0x19 (.mem (.aby addr)) orA s)

/-- ORA (zp,X) (R202, R143). -/
def execOraIzx (zp : Byte) (s : State) : Result := .next (readInstr 0x01 (.mem (.izx zp)) orA s)

/-- ORA (zp),Y (R202, R144). -/
def execOraIzy (zp : Byte) (s : State) : Result := .next (readInstr 0x11 (.mem (.izy zp)) orA s)

/-- EOR #v (R203, R133). -/
def execEorImm (v : Byte) (s : State) : Result := .next (readInstr 0x49 (.imm v) xorA s)

/-- EOR zp (R203, R134). -/
def execEorZp (zp : Byte) (s : State) : Result := .next (readInstr 0x45 (.mem (.zp zp)) xorA s)

/-- EOR zp,X (R203, R136). -/
def execEorZpx (zp : Byte) (s : State) : Result := .next (readInstr 0x55 (.mem (.zpx zp)) xorA s)

/-- EOR addr (R203, R135). -/
def execEorAbs (addr : Word) (s : State) : Result := .next (readInstr 0x4D (.mem (.abs addr)) xorA s)

/-- EOR addr,X (R203, R138). -/
def execEorAbx (addr : Word) (s : State) : Result := .next (readInstr 0x5D (.mem (.abx addr)) xorA s)

/-- EOR addr,Y (R203, R139). -/
def execEorAby (addr : Word) (s : State) : Result := .next (readInstr 0x59 (.mem (.aby addr)) xorA s)

/-- EOR (zp,X) (R203, R143). -/
def execEorIzx (zp : Byte) (s : State) : Result := .next (readInstr 0x41 (.mem (.izx zp)) xorA s)

/-- EOR (zp),Y (R203, R144). -/
def execEorIzy (zp : Byte) (s : State) : Result := .next (readInstr 0x51 (.mem (.izy zp)) xorA s)

/-- BIT zp (R204, R134). -/
def execBitZp (zp : Byte) (s : State) : Result := .next (readInstr 0x24 (.mem (.zp zp)) bitTestA s)

/-- BIT addr (R204, R135). -/
def execBitAbs (addr : Word) (s : State) : Result := .next (readInstr 0x2C (.mem (.abs addr)) bitTestA s)

/-- ASL A (R205, R132). -/
def execAslAcc (s : State) : Result := .next (modifyInstr 0x0A .acc asl s)

/-- ASL zp (R205, R134). -/
def execAslZp (zp : Byte) (s : State) : Result := .next (modifyInstr 0x06 (.mem (.zp zp)) asl s)

/-- ASL zp,X (R205, R136). -/
def execAslZpx (zp : Byte) (s : State) : Result := .next (modifyInstr 0x16 (.mem (.zpx zp)) asl s)

/-- ASL addr (R205, R135). -/
def execAslAbs (addr : Word) (s : State) : Result := .next (modifyInstr 0x0E (.mem (.abs addr)) asl s)

/-- ASL addr,X (R205, R138). -/
def execAslAbx (addr : Word) (s : State) : Result := .next (modifyInstr 0x1E (.mem (.abx addr)) asl s)

/-- LSR A (R206, R132). -/
def execLsrAcc (s : State) : Result := .next (modifyInstr 0x4A .acc lsr s)

/-- LSR zp (R206, R134). -/
def execLsrZp (zp : Byte) (s : State) : Result := .next (modifyInstr 0x46 (.mem (.zp zp)) lsr s)

/-- LSR zp,X (R206, R136). -/
def execLsrZpx (zp : Byte) (s : State) : Result := .next (modifyInstr 0x56 (.mem (.zpx zp)) lsr s)

/-- LSR addr (R206, R135). -/
def execLsrAbs (addr : Word) (s : State) : Result := .next (modifyInstr 0x4E (.mem (.abs addr)) lsr s)

/-- LSR addr,X (R206, R138). -/
def execLsrAbx (addr : Word) (s : State) : Result := .next (modifyInstr 0x5E (.mem (.abx addr)) lsr s)

/-- ROL A (R207, R132). -/
def execRolAcc (s : State) : Result := .next (modifyInstr 0x2A .acc rol s)

/-- ROL zp (R207, R134). -/
def execRolZp (zp : Byte) (s : State) : Result := .next (modifyInstr 0x26 (.mem (.zp zp)) rol s)

/-- ROL zp,X (R207, R136). -/
def execRolZpx (zp : Byte) (s : State) : Result := .next (modifyInstr 0x36 (.mem (.zpx zp)) rol s)

/-- ROL addr (R207, R135). -/
def execRolAbs (addr : Word) (s : State) : Result := .next (modifyInstr 0x2E (.mem (.abs addr)) rol s)

/-- ROL addr,X (R207, R138). -/
def execRolAbx (addr : Word) (s : State) : Result := .next (modifyInstr 0x3E (.mem (.abx addr)) rol s)

/-- ROR A (R208, R132). -/
def execRorAcc (s : State) : Result := .next (modifyInstr 0x6A .acc ror s)

/-- ROR zp (R208, R134). -/
def execRorZp (zp : Byte) (s : State) : Result := .next (modifyInstr 0x66 (.mem (.zp zp)) ror s)

/-- ROR zp,X (R208, R136). -/
def execRorZpx (zp : Byte) (s : State) : Result := .next (modifyInstr 0x76 (.mem (.zpx zp)) ror s)

/-- ROR addr (R208, R135). -/
def execRorAbs (addr : Word) (s : State) : Result := .next (modifyInstr 0x6E (.mem (.abs addr)) ror s)

/-- ROR addr,X (R208, R138). -/
def execRorAbx (addr : Word) (s : State) : Result := .next (modifyInstr 0x7E (.mem (.abx addr)) ror s)

end Sys2Proof.Machine
end

