-- ==== Sys2Proof/Machine/Fetch.lean ====
section
/-! DEFINITION. Fetch (30_encoding.md R103), the choice of what a step does (60_exceptions.md R280), and the placing of an
instruction at PC. -/

namespace Sys2Proof.Machine

/-- Fetch and decode (R103): the opcode byte at PC, then as many operand bytes as its mode has, at consecutive addresses modulo
65536. PC is not moved: the instruction's own meaning advances it. -/
def fetch (s : State) : Instr × State :=
  let (op, s1) := memRead s.pc s
  match operandWidth op with
  | 0 => (decodeOp op 0 0, s1)
  | 1 =>
    let (b1, s2) := memRead (s.pc + 1) s1
    (decodeOp op b1 0, s2)
  | _ =>
    let (b1, s2) := memRead (s.pc + 1) s1
    let (b2, s3) := memRead (s.pc + 2) s2
    (decodeOp op b1 b2, s3)

/-- What one step does: a whole interrupt or reset sequence, or one instruction, never both (R306). -/
inductive Event
  /-- The state after a sequence. -/
  | sequence (s : State)
  /-- The instruction fetched, and the state after its bytes are read. -/
  | instruction (i : Instr) (s : State)
deriving DecidableEq, Repr

/-- Priority (R280): RESET, then NMI, then IRQ if it is not masked, then an instruction. The record of the previous step's
accesses is cleared first (log 11). -/
def nextEvent (s : State) : Event :=
  let s := { s with busTrace := [] }
  if s.resetPending then .sequence (resetSequence s)
  else if s.nmiPending then .sequence (interruptEntry s.cfg.vecNmi { s with nmiPending := false })
  else if s.irqPending && !s.flags.i then
    .sequence (interruptEntry s.cfg.vecIrq { s with irqPending := false })
  else
    let (i, s) := fetch s
    .instruction i s

/-- The bus with the byte that a read of `a` gives replaced by `v`: a RAM cell (put there where a device or a mirror was), or a
byte of the program ROM of the cartridge, as if the cartridge had been loaded with it. No step does this (R55); it stands for the
loading of a program (log 16). -/
def Bus.place (a : Word) (v : Byte) (b : Bus) : Bus :=
  match translate b.pages a with
  | some k => { b with cart.prgRom := b.cart.prgRom.write k v }
  | none => { b with low := b.low.place a v }

/-- `bytes` placed at consecutive addresses from `a`, modulo 65536. -/
def Bus.placeBytes (a : Word) (bytes : List Byte) (b : Bus) : Bus :=
  match bytes with
  | [] => b
  | v :: rest => Bus.placeBytes (a + 1) rest (b.place a v)

/-- `bytes` placed at PC, with no request pending that the next step would serve instead and no fault recorded (log 16). -/
def placeInstruction (bytes : List Byte) (s : State) : State :=
  { s with
    resetPending := false
    nmiPending := false
    irqPending := s.irqPending && s.flags.i
    fault := none
    bus := s.bus.placeBytes s.pc bytes }

end Sys2Proof.Machine
end

