-- ==== Sys2Proof/Machine/Step.lean ====
section
/-! DEFINITION. One step of the machine (70_reset_and_hazards.md R306, R307), and the placing of an instruction where the next
step fetches it. -/

namespace Sys2Proof.Machine

/-- `step()` (R307): refused with the recorded fault while `fault` is not `none` (R273); otherwise the first of RESET, NMI,
unmasked IRQ and an instruction, in that order (R280). -/
def step (s : State) : Host.Outcome State Fault Refusal :=
  match s.fault with
  | some r => .fault (.unsupportedOpcode r.op r.pc s)
  | none =>
    match nextEvent s with
    | .sequence s => .next s
    | .instruction i s => exec i s

/-- `s` with the instruction in the `nbits` low bits of `w` stored where the next step fetches, and nothing pending or faulted
that would keep the step from running it (log 16). -/
def State.withFetchWord (s : State) (nbits w : Nat) : State := placeInstruction (tableBytes nbits w) s

end Sys2Proof.Machine
end

