-- ==== Sys2Proof/Machine/HostCalls.lean ====
section
/-! DEFINITION. What the host may call between steps (70_reset_and_hazards.md R313): building the machine (R300), the three
requests (60_exceptions.md R275), and its own access to the bus (20_memory.md R77, R78). -/

namespace Sys2Proof.Machine

/-- Power-on from a cartridge file (R300): `load`, then the machine, or the load error and no machine (R291). `low` is the
launch value of `LowBus`, with its content, which the spec leaves open (R38). -/
def boot (cfg : Params) (bytes : List Byte) (low : LowBus) : Except LoadError State :=
  (load cfg.mapperId bytes).map fun cart => State.powerOn cfg cart low

/-- `request_irq()` (R275): a request while the latch is set is absorbed. -/
def State.requestIrq (s : State) : State := { s with irqPending := true }

/-- `request_nmi()` (R275). -/
def State.requestNmi (s : State) : State := { s with nmiPending := true }

/-- `reset()` (R275): the sequence itself is the next step's (R278). -/
def State.requestReset (s : State) : State := { s with resetPending := true }

/-- `read_bus(address)` (R77): `MemRead` by the host, which a device below 0x8000 sees; no register, flag, latch or cycle count
changes, and `busTrace` stays (log 11). -/
def State.readBus (a : Word) (s : State) : Byte × State := (s.bus.read a, { s with bus := s.bus.afterRead a })

/-- `write_bus(address, value)` (R77): `MemWrite` by the host, the mapper's side effect included. It is no access of a step, so
`busTrace` stays (log 11). -/
def State.writeBus (a : Word) (v : Byte) (s : State) : State := { s with bus := s.bus.write s.cfg a v }

/-- Program-ROM bytes of the visible 32 KiB from index `k`, at most `n` of them, stopping after index 32767 (R78). -/
def visibleFrom (b : Bus) (k n : Nat) : List Byte :=
  match n with
  | 0 => []
  | n + 1 => if k < 2 * prgPageSize then b.visibleByte k :: visibleFrom b (k + 1) n else []

/-- `read_prg(pc, byte_count)` (R78); below 0x8000 the spec refuses the call, here `none` (log 18). -/
def State.readPrg (pc : Word) (n : Nat) (s : State) : Option (List Byte) :=
  if pc.toNat < 0x8000 then none else some (visibleFrom s.bus (pc.toNat - 0x8000) n)

end Sys2Proof.Machine
end

