-- ==== Sys2Proof/Safety.lean ====
section
/-! DEFINITION. What the claims mean by a good state and by a safe run. -/

namespace Sys2Proof.Machine

/-- The bank selection names banks that the cartridge has (R36). -/
def Pages.valid (p : Pages) (n : Nat) : Prop := p.lower < n ∧ p.upper < n

/-- The zero page and the stack page behave as RAM, no two of their addresses sharing a cell: what R56 and R302 (c) ask of
`LowBus` for the stack to work. -/
def LowBus.ramPages (l : LowBus) : Prop :=
  ∀ a b : Word, a.toNat < 0x200 → b.toNat < 0x200 → ∃ c, l.target a = .cell c ∧ (l.target b = .cell c → b = a)

/-- The access is to a device of `LowBus` (R56). -/
def LowBus.deviceAccess (l : LowBus) (x : Access) : Bool :=
  match x with
  | .read a _ | .write a _ =>
    match l.target a with
    | .cell _ => false
    | .device _ => decide (a.toNat < 0x8000)

/-- A bus that a run can reach: a cartridge as `load` leaves it, a valid bank selection (R36), and RAM cells in canonical form
below 0x8000 (R52). -/
structure Bus.wf (b : Bus) : Prop where
  cart : b.cart.wf
  pages : Pages.valid b.pages b.cart.prgRomPages
  ram_canonical : b.low.ram.wf
  ram_below_windows : b.low.ram.within 0x8000

/-- The invariant of a run: a good bus, and no fault recorded (a machine that has faulted takes no step, R273). -/
structure State.Inv (s : State) : Prop where
  bus : s.bus.wf
  running : s.fault = none

/-- Nothing that the next step would serve instead of an instruction (R280). -/
def State.quiet (s : State) : Prop :=
  s.resetPending = false ∧ s.nmiPending = false ∧ (s.irqPending && !s.flags.i) = false

/-- The states that `k` steps lead to. -/
def Reaches (s : State) (k : Nat) (t : State) : Prop := Sys2Proof.core.run k s = .next t

/-- A safe run: `k` steps, none of which faults or is refused. -/
def SafeFor (s : State) (k : Nat) : Prop := ∃ t, Reaches s k t

end Sys2Proof.Machine
end

