-- ==== Sys2Proof/Certificates/Slice0/Obligations.lean ====
section
/-! DEFINITION. The statements about the machine, each from the numbered rules of spec/ that its entry in OBLIGATIONS.json cites.
The terms they are written in come first: the rules' own formulas in plain arithmetic on numbers, beside the model's operations. -/

namespace Sys2Proof.Claims

open Sys2Proof.Machine

/-- The byte that the bus of `s` gives at the number `k`, taken modulo 65536. -/
def byteAt (s : State) (k : Nat) : Byte := s.bus.read (BitVec.ofNat 16 k)

/-- What a read of the number `k` leaves: on the bus what the read does there (R53, R60), and the record of the access (R85). -/
def look (k : Nat) (s : State) : State :=
  { s with
    bus := s.bus.afterRead (BitVec.ofNat 16 k)
    busTrace := s.busTrace ++ [.read (BitVec.ofNat 16 k) (byteAt s k)] }

/-- What reads of the numbers `ks` leave, one after another. -/
def looks (ks : List Nat) (s : State) : State :=
  match ks with
  | [] => s
  | k :: rest => looks rest (look k s)

/-- The 16-bit number whose low byte is read at `l`, and then its high byte at `h` (R57). -/
def numberAt (s : State) (l h : Nat) : Nat := (byteAt s l).toNat + 256 * (byteAt (look l s) h).toNat

/-- The zero-page pointer at `z`, its second byte wrapping inside the zero page (R143, R144). -/
def pointer (s : State) (z : Nat) : Nat := numberAt s z ((z + 1) % 256)

/-- The effective address of a memory mode as a number (R134 to R139, R143, R144). -/
def ea (m : MemMode) (s : State) : Nat :=
  match m with
  | .zp b => b.toNat
  | .zpx b => (b.toNat + s.x.toNat) % 256
  | .zpy b => (b.toNat + s.y.toNat) % 256
  | .abs w => w.toNat
  | .abx w => (w.toNat + s.x.toNat) % 65536
  | .aby w => (w.toNat + s.y.toNat) % 65536
  | .izx b => pointer s ((b.toNat + s.x.toNat) % 256)
  | .izy b => (pointer s b.toNat + s.y.toNat) % 65536

/-- The page-cross flag (R140): the high bytes of base and effective address differ. -/
def crossed (m : MemMode) (s : State) : Bool :=
  match m with
  | .abx w | .aby w => w.toNat / 256 != ea m s / 256
  | .izy b => pointer s b.toNat / 256 != ea m s / 256
  | .zp _ | .zpx _ | .zpy _ | .abs _ | .izx _ => false

/-- Where a memory mode reads its pointer while it resolves, low byte first (R85, R143, R144). -/
def pointerCells (m : MemMode) (s : State) : List Nat :=
  match m with
  | .izx b => [(b.toNat + s.x.toNat) % 256, ((b.toNat + s.x.toNat) % 256 + 1) % 256]
  | .izy b => [b.toNat, (b.toNat + 1) % 256]
  | .zp _ | .zpx _ | .zpy _ | .abs _ | .abx _ | .aby _ => []

/-- The operand `M` (R145): the immediate byte, the accumulator, or the byte that the effective address gives once the pointer
is read. The modes IMP, IND and REL have no operand to read. -/
def value (o : Operand) (s : State) : Byte :=
  match o with
  | .imm v => v
  | .acc => s.a
  | .mem m => byteAt (looks (pointerCells m s) s) (ea m s)
  | .imp | .ind _ | .rel _ => 0

/-- Where an operand is read: the pointer bytes, then once the effective address (R85, R145). -/
def operandCells (o : Operand) (s : State) : List Nat :=
  match o with
  | .mem m => pointerCells m s ++ [ea m s]
  | .imp | .acc | .imm _ | .ind _ | .rel _ => []

/-- The page-cross flag of an operand (R140). -/
def operandCrossed (o : Operand) (s : State) : Bool :=
  match o with
  | .mem m => crossed m s
  | .imp | .acc | .imm _ | .ind _ | .rel _ => false

/-- PC past the instruction (R103), the base cycle count of its opcode and `extra` cycles more (R308), and nothing else
changed. -/
def stepped (i : Instr) (extra : Nat) (s : State) : State :=
  { s with
    pc := s.pc + BitVec.ofNat 16 (1 + i.operand.width)
    cycles := s.cycles + baseCycles s.cfg.baseCycles i.opcode + extra }

/-- What a read-class instruction leaves besides its rule's writes: one read of the operand, one cycle more on a page cross
(R147), no memory written. -/
def afterRead (i : Instr) (s : State) : State :=
  stepped i (operandCrossed i.operand s).toNat (looks (operandCells i.operand s) s)

/-- What an implied-mode register or flag instruction leaves besides its rule's writes: no access at all. -/
def afterImplied (i : Instr) (s : State) : State := stepped i 0 s

/-- What writing `v` at the effective address of `i` leaves: the bus write (R54) after reads of `cells`, no page-cross cycle
(R147). -/
def afterWrite (i : Instr) (m : MemMode) (cells : List Nat) (v : Byte) (s : State) : State :=
  let u := looks cells s
  { stepped i 0 u with
    bus := u.bus.write s.cfg (BitVec.ofNat 16 (ea m s)) v
    busTrace := u.busTrace ++ [.write (BitVec.ofNat 16 (ea m s)) v] }

/-- What a store-class instruction leaves (R164 to R166): the pointer reads of its mode, one write, nothing read at `ea`. -/
def afterStore (i : Instr) (v : Byte) (s : State) : State :=
  match i.operand with
  | .mem m => afterWrite i m (pointerCells m s) v s
  | .imp | .acc | .imm _ | .ind _ | .rel _ => s

/-- What a read-modify-write instruction with result `r` leaves besides its flags (R146, R86): in accumulator mode A, otherwise
one read and one write of the same cell. -/
def afterModify (i : Instr) (r : Byte) (s : State) : State :=
  match i.operand with
  | .acc => { stepped i 0 s with a := r }
  | .mem m => afterWrite i m (operandCells (.mem m) s) r s
  | .imp | .imm _ | .ind _ | .rel _ => s

/-- The cell of the stack page that SP names (R22). -/
def stackCell (sp : Byte) : Word := BitVec.ofNat 16 (256 + sp.toNat)

/-- The bytes `vs` pushed one after another (R31). -/
def pushed (vs : List Byte) (s : State) : State :=
  match vs with
  | [] => s
  | v :: rest => pushed rest { s with
      bus := s.bus.write s.cfg (stackCell s.sp) v
      sp := s.sp - 1
      busTrace := s.busTrace ++ [.write (stackCell s.sp) v] }

/-- What `n` pops in a row leave (R32). -/
def pulled (n : Nat) (s : State) : State :=
  match n with
  | 0 => s
  | n + 1 =>
    let u := pulled n s
    let cell := stackCell (u.sp + 1)
    { u with
      sp := u.sp + 1
      bus := u.bus.afterRead cell
      busTrace := u.busTrace ++ [.read cell (u.bus.read cell)] }

/-- The byte that the `k`-th of a row of pops returns, counted from 1 (R32). -/
def popped (s : State) (k : Nat) : Byte := (pulled (k - 1) s).bus.read (stackCell (s.sp + BitVec.ofNat 8 k))

/-- PC through the vector at `vec`, low byte at `vec` and then high byte at `vec + 1` modulo 65536 (R58). -/
def throughVector (vec : Word) (s : State) : State :=
  { looks [vec.toNat, vec.toNat + 1] s with pc := BitVec.ofNat 16 (numberAt s vec.toNat (vec.toNat + 1)) }

/-- No access at `e` changes what `a` reads as: `a` is in a window, or it is RAM and `e` is not the same cell (R53, R56). Bank
selection, which a write in the control range changes, is a matter of its own. -/
def apart (s : State) (a e : Word) : Prop :=
  0x8000 ≤ a.toNat ∨ ∃ c, s.bus.low.target a = .cell c ∧ s.bus.low.target e ≠ .cell c

/-- What the branch `i` with the offset `rel` leaves when its condition is `cond` (R240, R249). -/
def branched (i : Instr) (cond : Bool) (rel : Byte) (s : State) : State :=
  let pcn : Nat := (s.pc.toNat + 2) % 65536
  let target : Nat := (((pcn : Int) + rel.toInt) % 65536).toNat
  let base : Nat := s.cycles + baseCycles s.cfg.baseCycles i.opcode
  if cond then { s with pc := BitVec.ofNat 16 target, cycles := base + if pcn / 256 = target / 256 then 1 else 2 }
  else { s with pc := BitVec.ofNat 16 pcn, cycles := base }

/-- Both nibbles are in 0..9 (R15). -/
def isBcd (v : Byte) : Prop := v.toNat % 16 ≤ 9 ∧ v.toNat / 16 ≤ 9

/-- The byte of two decimal digits that stands for `n`, 0 to 99 (R14, R15). -/
def bcd (n : Nat) : Byte := BitVec.ofNat 8 (16 * (n / 10) + n % 10)

/-- The flags after a result `r` that sets only Z and N (R10). -/
def zn (r : Byte) (f : Flags) : Flags := { f with z := decide (r.toNat = 0), n := decide (128 ≤ r.toNat) }

/-- The flags after a result `r` with carry `c` (R205 to R208, R185 to R187). -/
def czn (c : Bool) (r : Byte) (f : Flags) : Flags := { zn r f with c := c }

/-- The base cycle counts of the table of R312, by mnemonic and mode. -/
def cyclesOf (n : Mnemonic) (o : Operand) : Nat :=
  let modifies := n ∈ [.asl, .lsr, .rol, .ror, .inc, .dec]
  let stores := n ∈ [.sta, .stx, .sty]
  match o with
  | .imm _ | .acc | .rel _ => 2
  | .ind _ => 5
  | .imp =>
    if n ∈ [.pha, .php] then 3
    else if n ∈ [.pla, .plp] then 4
    else if n ∈ [.rts, .rti] then 6
    else if n = .brk then 7
    else 2
  | .mem m =>
    if n = .jmp then 3
    else if n = .jsr then 6
    else match m with
      | .zp _ => if modifies then 5 else 3
      | .zpx _ | .zpy _ | .abs _ => if modifies then 6 else 4
      | .abx _ | .aby _ => if modifies then 7 else if stores then 5 else 4
      | .izx _ => 6
      | .izy _ => if stores then 6 else 5

end Sys2Proof.Claims

open Sys2Proof Sys2Proof.Machine Sys2Proof.Claims
open Sys2Proof.Machine.Memory (ofBytes)

/-! ## Encoding -/

/-- A few words of R106 and R111, byte by byte, decode to the instruction they stand for. -/
def Obligations.SampleWordsDecode : Prop :=
  decode [0x18] = .ok (.clc, []) ∧ decode [0x0A] = .ok (.aslAcc, []) ∧
  decode [0xA9, 0x10] = .ok (.ldaImm 0x10, []) ∧ decode [0xB6, 0x10] = .ok (.ldxZpy 0x10, []) ∧
  decode [0xAD, 0x34, 0x12] = .ok (.ldaAbs 0x1234, []) ∧ decode [0x6C, 0x34, 0x12] = .ok (.jmpInd 0x1234, []) ∧
  decode [0xB1, 0x10, 0xEA] = .ok (.ldaIzy 0x10, [0xEA]) ∧ decode [0xD0, 0xF9] = .ok (.bne 0xF9, []) ∧
  decode [0x02, 0x55] = .ok (.unsupported 0x02, [0x55]) ∧ decode [0xAD, 0x34] = .error (.truncated 1)

/-- Decoding the bytes of any well-formed instruction, with any bytes after them, gives it back with every operand bit. -/
def Obligations.DecodeOfEncodeIsTheInstruction : Prop :=
  ∀ (i : Instr) (rest : List Byte), i.wf = true → decode (encode i ++ rest) = .ok (i, rest)

/-- Whatever a byte sequence decodes to is well-formed and encodes to exactly the bytes it was read from: no byte has two
meanings, none falls through to a neighbour, and a sequence is refused only when it is too short. -/
def Obligations.EncodeOfDecodeIsTheBytes : Prop :=
  (∀ (bytes rest : List Byte) (i : Instr), decode bytes = .ok (i, rest) → i.wf = true ∧ encode i ++ rest = bytes) ∧
  (∀ bytes : List Byte, 3 ≤ bytes.length → ∃ i rest, decode bytes = .ok (i, rest))

/-- The unsupported bytes are exactly the 105 of R108, without repeats; every other byte is one of 151 implemented opcodes. -/
def Obligations.UnsupportedBytesAreTheListed105 : Prop :=
  unsupportedOpcodes.length = 105 ∧ unsupportedOpcodes.Nodup ∧
  ∀ op b1 b2 : Byte, (decodeOp op b1 b2).opcode = op ∧
    ((decodeOp op b1 b2).mnemonic = .unsupported ↔ op ∈ unsupportedOpcodes) ∧
    (op ∈ unsupportedOpcodes → decodeOp op b1 b2 = .unsupported op)

/-! ## Fetch and step -/

/-- With no fault, no RESET, no NMI and no unmasked IRQ pending, a step fetches the opcode byte at PC and exactly its operand
bytes at the next addresses modulo 65536, in that order, and is `exec` of the instruction those bytes decode to, with PC still
at the opcode (each meaning advances it). -/
def Obligations.StepRunsTheDecodedInstruction : Prop :=
  ∀ (s : State) (i : Instr) (rest : List Byte),
    let s₀ := { s with busTrace := [] }
    let p := s.pc.toNat
    s.fault = none → s.quiet →
    decode [byteAt s₀ p, byteAt (look p s₀) (p + 1), byteAt (looks [p, p + 1] s₀) (p + 2)] = .ok (i, rest) →
    step s = exec i (looks ((List.range (1 + i.operand.width)).map (p + ·)) s₀)

/-! ## Addressing modes -/

/-- The memory modes resolve to the address and page-cross flag of the spec's arithmetic, with exactly the pointer reads it
lists, and do nothing else. -/
def Obligations.MemoryModesResolve : Prop :=
  ∀ (m : MemMode) (s : State),
    resolve m s = (⟨BitVec.ofNat 16 (ea m s), crossed m s⟩, looks (pointerCells m s) s)

/-! ## Loads, stores, transfers -/

/-- LDA, LDX and LDY in every mode: the register takes the operand, Z and N come from it, nothing else changes. -/
def Obligations.LoadsWriteTheRegisterAndZN : Prop :=
  ∀ (i : Instr) (s : State),
    let v := value i.operand s
    (i.mnemonic = .lda →
      i.opcode ∈ [0xA9, 0xA5, 0xB5, 0xAD, 0xBD, 0xB9, 0xA1, 0xB1] ∧
      exec i s = .next { afterRead i s with a := v, flags := zn v s.flags }) ∧
    (i.mnemonic = .ldx →
      i.opcode ∈ [0xA2, 0xA6, 0xB6, 0xAE, 0xBE] ∧
      exec i s = .next { afterRead i s with x := v, flags := zn v s.flags }) ∧
    (i.mnemonic = .ldy →
      i.opcode ∈ [0xA0, 0xA4, 0xB4, 0xAC, 0xBC] ∧
      exec i s = .next { afterRead i s with y := v, flags := zn v s.flags })

/-- STA, STX and STY in every mode: one bus write of the register at the effective address, no read there, no flag and no
register but PC changed. -/
def Obligations.StoresWriteTheEffectiveAddress : Prop :=
  ∀ (i : Instr) (s : State),
    (i.mnemonic = .sta →
      i.opcode ∈ [0x85, 0x95, 0x8D, 0x9D, 0x99, 0x81, 0x91] ∧ exec i s = .next (afterStore i s.a s)) ∧
    (i.mnemonic = .stx → i.opcode ∈ [0x86, 0x96, 0x8E] ∧ exec i s = .next (afterStore i s.x s)) ∧
    (i.mnemonic = .sty → i.opcode ∈ [0x84, 0x94, 0x8C] ∧ exec i s = .next (afterStore i s.y s))

/-- The frame of the storing instructions (STA, STX, STY, and INC, DEC, ASL, LSR, ROL, ROR on memory): with the effective
address below 0x8000 every window address and every RAM cell but the one stored to reads as before (with flat RAM, every other
address); at or above it no RAM cell and no ROM byte changes. -/
def Obligations.StoreFrame : Prop :=
  ∀ (i : Instr) (m : MemMode) (s t : State), s.bus.low.ram.wf → i.operand = .mem m →
    i.mnemonic ∈ [.sta, .stx, .sty, .inc, .dec, .asl, .lsr, .rol, .ror] → exec i s = .next t →
    (ea m s < 0x8000 →
      (∀ a : Word, apart s a (BitVec.ofNat 16 (ea m s)) → t.bus.read a = s.bus.read a) ∧
      (s.bus.low.map = [] → ∀ a : Word, a.toNat ≠ ea m s → t.bus.read a = s.bus.read a)) ∧
    (0x8000 ≤ ea m s → t.bus.low.ram = s.bus.low.ram) ∧ t.bus.cart = s.bus.cart ∧
    t.sp = s.sp ∧ t.x = s.x ∧ t.y = s.y ∧ t.a = s.a

/-- TAX, TAY, TXA, TYA and TSX copy a register and set Z and N from it; TXS copies X to SP and sets no flag. -/
def Obligations.TransfersCopyTheRegister : Prop :=
  [Instr.tax, .tay, .txa, .tya, .txs, .tsx].map Instr.opcode = [0xAA, 0xA8, 0x8A, 0x98, 0x9A, 0xBA] ∧
  ∀ s : State,
    exec .tax s = .next { afterImplied .tax s with x := s.a, flags := zn s.a s.flags } ∧
    exec .tay s = .next { afterImplied .tay s with y := s.a, flags := zn s.a s.flags } ∧
    exec .txa s = .next { afterImplied .txa s with a := s.x, flags := zn s.x s.flags } ∧
    exec .tya s = .next { afterImplied .tya s with a := s.y, flags := zn s.y s.flags } ∧
    exec .txs s = .next { afterImplied .txs s with sp := s.x } ∧
    exec .tsx s = .next { afterImplied .tsx s with x := s.sp, flags := zn s.sp s.flags }

/-! ## Arithmetic -/

/-- ADC with D = 0 in every mode: the sum modulo 256, C its carry, V exactly when the signed sum leaves -128..127. The clause
on V is the sentence of R181 that the spec marks as derived ("exactly when the signed sum ... lies outside"). -/
def Obligations.AdcBinaryAddsWithCarry : Prop :=
  ∀ (i : Instr) (s : State), i.mnemonic = .adc → s.flags.d = false →
    let v := value i.operand s
    let t := s.a.toNat + v.toNat + s.flags.c.toNat
    let signed := s.a.toInt + v.toInt + s.flags.c.toNat
    i.opcode ∈ [0x69, 0x65, 0x75, 0x6D, 0x7D, 0x79, 0x61, 0x71] ∧
    exec i s = .next { afterRead i s with
      a := BitVec.ofNat 8 t
      flags := { s.flags with
        c := decide (256 ≤ t)
        z := decide (t % 256 = 0)
        v := decide (signed < -128 ∨ 127 < signed)
        n := decide (128 ≤ t % 256) } }

/-- ADC with D = 1: the two digit corrections, with N and V sampled between them and C after them, on valid BCD operands and,
at the reference DecimalNumerics, on every operand. Whatever DecimalNumerics is, ADC completes on every operand, Z is the binary
sum's, and only A, C, V and N are the parameter's (log 4). -/
def Obligations.AdcDecimalCorrectsTheDigits : Prop :=
  ∀ (i : Instr) (s : State), i.mnemonic = .adc → s.flags.d = true →
    let a := s.a.toNat
    let v := (value i.operand s).toNat
    let c := s.flags.c.toNat
    let t := a + v + c
    let t1 := if 9 < a % 16 + v % 16 + c then t + 6 else t
    let t2 := if 0x99 < t1 then t1 + 0x60 else t1
    (s.cfg.decimal = .reference ∨ isBcd s.a ∧ isBcd (value i.operand s) →
      exec i s = .next { afterRead i s with
        a := BitVec.ofNat 8 t2
        flags := { s.flags with
          c := decide (0x99 < t2)
          z := decide (t % 256 = 0)
          v := decide (a / 128 = v / 128 ∧ a / 128 ≠ t1 / 128 % 2)
          n := decide (128 ≤ t1 % 256) } }) ∧
    ∃ (a' : Byte) (c' v' n' : Bool),
      exec i s = .next { afterRead i s with
        a := a', flags := { s.flags with c := c', z := decide (t % 256 = 0), v := v', n := n' } }

/-- SBC with D = 0 in every mode: the difference modulo 256, C = 1 for no borrow, V exactly when the signed difference leaves
-128..127. The clause on V is the sentence of R183 on the signed difference, not its formula. -/
def Obligations.SbcBinarySubtractsWithBorrow : Prop :=
  ∀ (i : Instr) (s : State), i.mnemonic = .sbc → s.flags.d = false →
    let v := value i.operand s
    let t : Int := s.a.toNat - v.toNat - (1 - s.flags.c.toNat)
    let signed : Int := s.a.toInt - v.toInt - (1 - s.flags.c.toNat)
    i.opcode ∈ [0xE9, 0xE5, 0xF5, 0xED, 0xFD, 0xF9, 0xE1, 0xF1] ∧
    exec i s = .next { afterRead i s with
      a := BitVec.ofInt 8 t
      flags := { s.flags with
        c := decide (0 ≤ t)
        z := decide (t % 256 = 0)
        v := decide (signed < -128 ∨ 127 < signed)
        n := decide (128 ≤ t % 256) } }

/-- SBC with D = 1: the flags of the binary difference on every operand, whatever DecimalNumerics is; A after the two digit
corrections on valid BCD operands and, at the reference DecimalNumerics, on every operand (log 4). -/
def Obligations.SbcDecimalCorrectsTheDigits : Prop :=
  ∀ (i : Instr) (s : State), i.mnemonic = .sbc → s.flags.d = true →
    let a : Int := s.a.toNat
    let v : Int := (value i.operand s).toNat
    let b : Int := 1 - s.flags.c.toNat
    let t := a - v - b
    let signed := s.a.toInt - (value i.operand s).toInt - b
    let t1 := if a % 16 - b < v % 16 then t - 6 else t
    let t2 := if t1 < 0 ∨ 0x99 < t1 then t1 - 0x60 else t1
    ∃ a' : Byte,
      exec i s = .next { afterRead i s with
        a := a'
        flags := { s.flags with
          c := decide (0 ≤ t)
          z := decide (t % 256 = 0)
          v := decide (signed < -128 ∨ 127 < signed)
          n := decide (128 ≤ t % 256) } } ∧
      (s.cfg.decimal = .reference ∨ isBcd s.a ∧ isBcd (value i.operand s) → a' = BitVec.ofInt 8 t2)

/-- ADC and SBC with D = 1 on valid BCD operands are decimal addition with carry and decimal subtraction with borrow, in every
mode. These are the sentences of R182 and R184 on valid BCD that the spec marks as derived. -/
def Obligations.DecimalModeIsDecimalArithmetic : Prop :=
  ∀ (i : Instr) (s : State) (p q : Nat), s.flags.d = true → p < 100 → q < 100 →
    s.a = bcd p → value i.operand s = bcd q →
    (i.mnemonic = .adc → ∃ t, exec i s = .next t ∧ t.a = bcd ((p + q + s.flags.c.toNat) % 100) ∧
      t.flags.c = decide (100 ≤ p + q + s.flags.c.toNat)) ∧
    (i.mnemonic = .sbc →
      let d : Int := p - q - (1 - s.flags.c.toNat)
      ∃ t, exec i s = .next t ∧ t.a = bcd (d % 100).toNat ∧ t.flags.c = decide (0 ≤ d))

/-- CMP, CPX and CPY in every mode: C is the unsigned comparison, Z and N are the difference's, and no register is written. -/
def Obligations.ComparesSetCZN : Prop :=
  ∀ (i : Instr) (s : State),
    let v := value i.operand s
    let compared := fun r : Byte =>
      czn (decide (v.toNat ≤ r.toNat)) (BitVec.ofNat 8 (r.toNat + 256 - v.toNat)) s.flags
    (i.mnemonic = .cmp →
      i.opcode ∈ [0xC9, 0xC5, 0xD5, 0xCD, 0xDD, 0xD9, 0xC1, 0xD1] ∧
      exec i s = .next { afterRead i s with flags := compared s.a }) ∧
    (i.mnemonic = .cpx →
      i.opcode ∈ [0xE0, 0xE4, 0xEC] ∧ exec i s = .next { afterRead i s with flags := compared s.x }) ∧
    (i.mnemonic = .cpy →
      i.opcode ∈ [0xC0, 0xC4, 0xCC] ∧ exec i s = .next { afterRead i s with flags := compared s.y })

/-- INC and DEC in every mode: one read and one write of the cell, the value one up or down modulo 256, Z and N only. -/
def Obligations.IncDecModifyMemory : Prop :=
  ∀ (i : Instr) (s : State),
    let v := (value i.operand s).toNat
    (i.mnemonic = .inc →
      i.opcode ∈ [0xE6, 0xF6, 0xEE, 0xFE] ∧
      let r := BitVec.ofNat 8 (v + 1)
      exec i s = .next { afterModify i r s with flags := zn r s.flags }) ∧
    (i.mnemonic = .dec →
      i.opcode ∈ [0xC6, 0xD6, 0xCE, 0xDE] ∧
      let r := BitVec.ofNat 8 (v + 255)
      exec i s = .next { afterModify i r s with flags := zn r s.flags })

/-- INX, INY, DEX and DEY: the register one up or down modulo 256, Z and N only. -/
def Obligations.IndexRegistersCount : Prop :=
  [Instr.inx, .iny, .dex, .dey].map Instr.opcode = [0xE8, 0xC8, 0xCA, 0x88] ∧
  ∀ s : State,
    let up := fun r : Byte => (BitVec.ofNat 8 (r.toNat + 1) : Byte)
    let down := fun r : Byte => (BitVec.ofNat 8 (r.toNat + 255) : Byte)
    exec .inx s = .next { afterImplied .inx s with x := up s.x, flags := zn (up s.x) s.flags } ∧
    exec .iny s = .next { afterImplied .iny s with y := up s.y, flags := zn (up s.y) s.flags } ∧
    exec .dex s = .next { afterImplied .dex s with x := down s.x, flags := zn (down s.x) s.flags } ∧
    exec .dey s = .next { afterImplied .dey s with y := down s.y, flags := zn (down s.y) s.flags }

/-! ## Logic, shifts, flags -/

/-- AND, ORA and EOR in every mode: A bit by bit, Z and N from the result. -/
def Obligations.LogicWorksBitByBit : Prop :=
  ∀ (i : Instr) (s : State),
    let v := value i.operand s
    (i.mnemonic = .and →
      i.opcode ∈ [0x29, 0x25, 0x35, 0x2D, 0x3D, 0x39, 0x21, 0x31] ∧
      exec i s = .next { afterRead i s with a := s.a &&& v, flags := zn (s.a &&& v) s.flags }) ∧
    (i.mnemonic = .ora →
      i.opcode ∈ [0x09, 0x05, 0x15, 0x0D, 0x1D, 0x19, 0x01, 0x11] ∧
      exec i s = .next { afterRead i s with a := s.a ||| v, flags := zn (s.a ||| v) s.flags }) ∧
    (i.mnemonic = .eor →
      i.opcode ∈ [0x49, 0x45, 0x55, 0x4D, 0x5D, 0x59, 0x41, 0x51] ∧
      exec i s = .next { afterRead i s with a := s.a ^^^ v, flags := zn (s.a ^^^ v) s.flags })

/-- BIT: Z from `A & M`, N and V from bits 7 and 6 of the operand; A and C are not written. -/
def Obligations.BitTestsTheOperand : Prop :=
  ∀ (i : Instr) (s : State), i.mnemonic = .bit →
    let v := value i.operand s
    i.opcode ∈ [0x24, 0x2C] ∧
    exec i s = .next { afterRead i s with
      flags := { s.flags with
        z := decide ((s.a &&& v).toNat = 0)
        n := decide (128 ≤ v.toNat)
        v := decide (64 ≤ v.toNat % 128) } }

/-- ASL, LSR, ROL and ROR on A or memory: one bit position, C the bit shifted out, the rotates taking the old C in. -/
def Obligations.ShiftsMoveOneBit : Prop :=
  ∀ (i : Instr) (s : State),
    let v := (value i.operand s).toNat
    let c := s.flags.c.toNat
    (i.mnemonic = .asl →
      i.opcode ∈ [0x0A, 0x06, 0x16, 0x0E, 0x1E] ∧
      let r := BitVec.ofNat 8 (2 * v)
      exec i s = .next { afterModify i r s with flags := czn (decide (128 ≤ v)) r s.flags }) ∧
    (i.mnemonic = .lsr →
      i.opcode ∈ [0x4A, 0x46, 0x56, 0x4E, 0x5E] ∧
      let r := BitVec.ofNat 8 (v / 2)
      exec i s = .next { afterModify i r s with flags := czn (decide (v % 2 = 1)) r s.flags }) ∧
    (i.mnemonic = .rol →
      i.opcode ∈ [0x2A, 0x26, 0x36, 0x2E, 0x3E] ∧
      let r := BitVec.ofNat 8 (2 * v + c)
      exec i s = .next { afterModify i r s with flags := czn (decide (128 ≤ v)) r s.flags }) ∧
    (i.mnemonic = .ror →
      i.opcode ∈ [0x6A, 0x66, 0x76, 0x6E, 0x7E] ∧
      let r := BitVec.ofNat 8 (v / 2 + 128 * c)
      exec i s = .next { afterModify i r s with flags := czn (decide (v % 2 = 1)) r s.flags })

/-- CLC, SEC, CLI, SEI, CLD, SED and CLV write the one flag they name; NOP writes nothing. -/
def Obligations.FlagInstructionsWriteOneFlag : Prop :=
  [Instr.clc, .sec, .cli, .sei, .cld, .sed, .clv, .nop].map Instr.opcode
    = [0x18, 0x38, 0x58, 0x78, 0xD8, 0xF8, 0xB8, 0xEA] ∧
  ∀ s : State,
    exec .clc s = .next { afterImplied .clc s with flags := { s.flags with c := false } } ∧
    exec .sec s = .next { afterImplied .sec s with flags := { s.flags with c := true } } ∧
    exec .cli s = .next { afterImplied .cli s with flags := { s.flags with i := false } } ∧
    exec .sei s = .next { afterImplied .sei s with flags := { s.flags with i := true } } ∧
    exec .cld s = .next { afterImplied .cld s with flags := { s.flags with d := false } } ∧
    exec .sed s = .next { afterImplied .sed s with flags := { s.flags with d := true } } ∧
    exec .clv s = .next { afterImplied .clv s with flags := { s.flags with v := false } } ∧
    exec .nop s = .next (afterImplied .nop s)

/-! ## Stack -/

/-- The status byte: the seven bit positions, bit 5 constant 1, bit 4 the pusher's; loading it gives the seven flags. -/
def Obligations.StatusByteLayout : Prop :=
  ∀ (f : Flags) (b4 : Bool) (v : Byte),
    (f.pack b4).getLsbD 0 = f.c ∧ (f.pack b4).getLsbD 1 = f.z ∧ (f.pack b4).getLsbD 2 = f.i ∧
    (f.pack b4).getLsbD 3 = f.d ∧ (f.pack b4).getLsbD 4 = b4 ∧ (f.pack b4).getLsbD 5 = true ∧
    (f.pack b4).getLsbD 6 = f.v ∧ (f.pack b4).getLsbD 7 = f.n ∧
    Flags.unpack v = { c := v.getLsbD 0, z := v.getLsbD 1, i := v.getLsbD 2, d := v.getLsbD 3,
                       b := v.getLsbD 4, v := v.getLsbD 6, n := v.getLsbD 7 } ∧
    (Flags.unpack v).pack b4 = (if b4 then v ||| 0x30 else (v &&& 0xCF) ||| 0x20)

/-- PHA pushes A, PHP pushes the status byte with bit 4 set; neither changes a flag. -/
def Obligations.PushesWriteTheStackCell : Prop :=
  Instr.pha.opcode = 0x48 ∧ Instr.php.opcode = 0x08 ∧
  ∀ s : State,
    exec .pha s = .next (pushed [s.a] (stepped .pha 0 s)) ∧
    exec .php s = .next (pushed [s.flags.pack true] (stepped .php 0 s))

/-- PLA pulls A and sets Z and N; PLP pulls all seven flags; where the stack page is RAM (R302 c) the pop changes nothing on the
bus, the popped cell included. -/
def Obligations.PullsReadTheStackCell : Prop :=
  Instr.pla.opcode = 0x68 ∧ Instr.plp.opcode = 0x28 ∧
  ∀ s : State,
    exec .pla s = .next { stepped .pla 0 (pulled 1 s) with a := popped s 1, flags := zn (popped s 1) s.flags } ∧
    exec .plp s = .next { stepped .plp 0 (pulled 1 s) with flags := Flags.unpack (popped s 1) } ∧
    (s.bus.low.ramPages → (pulled 1 s).bus = s.bus)

/-- Where the stack page is RAM (R302 c), a push then a pop gives the byte back and the stack pointer as it was. A push changes
its own cell of page 1 and no other window or RAM byte (with flat RAM, no other address); SP wraps inside the page. -/
def Obligations.PushThenPopGivesTheByteBack : Prop :=
  ∀ (v : Byte) (s : State), s.bus.low.ram.wf →
    (s.bus.low.ramPages → (pop (push v s)).1 = v) ∧ (pop (push v s)).2.sp = s.sp ∧
    (∀ a : Word, apart s a (stackCell s.sp) → (push v s).bus.read a = s.bus.read a) ∧
    (s.bus.low.map = [] → ∀ a : Word, a.toNat ≠ 256 + s.sp.toNat → (push v s).bus.read a = s.bus.read a) ∧
    (push v s).sp.toNat = (s.sp.toNat + 255) % 256

/-- The frame of the pushing instructions: PHA and PHP write one cell of the stack page, JSR two, BRK three; every window
address and every other RAM cell reads as before (with flat RAM, every other address); A, X, Y and the bank selection stay. -/
def Obligations.PushFrame : Prop :=
  ∀ (i : Instr) (s t : State) (n : Nat), s.bus.low.ram.wf → exec i s = .next t →
    (i.mnemonic = .pha ∧ n = 1 ∨ i.mnemonic = .php ∧ n = 1 ∨ i.mnemonic = .jsr ∧ n = 2 ∨ i.mnemonic = .brk ∧ n = 3) →
    (∀ a : Word, (∀ k < n, apart s a (stackCell (s.sp - BitVec.ofNat 8 k))) → t.bus.read a = s.bus.read a) ∧
    (s.bus.low.map = [] →
      ∀ a : Word, (∀ k < n, a ≠ stackCell (s.sp - BitVec.ofNat 8 k)) → t.bus.read a = s.bus.read a) ∧
    t.sp = s.sp - BitVec.ofNat 8 n ∧ t.a = s.a ∧ t.x = s.x ∧ t.y = s.y ∧ t.bus.pages = s.bus.pages

/-! ## Control flow -/

/-- The eight branches, each on its flag: taken or not, target and cycles, and nothing else changed. -/
def Obligations.BranchesTestTheirFlag : Prop :=
  ∀ (r : Byte) (s : State),
    [Instr.bcc r, .bcs r, .beq r, .bne r, .bmi r, .bpl r, .bvc r, .bvs r].map Instr.opcode
      = [0x90, 0xB0, 0xF0, 0xD0, 0x30, 0x10, 0x50, 0x70] ∧
    exec (.bcc r) s = .next (branched (.bcc r) (!s.flags.c) r s) ∧
    exec (.bcs r) s = .next (branched (.bcs r) s.flags.c r s) ∧
    exec (.beq r) s = .next (branched (.beq r) s.flags.z r s) ∧
    exec (.bne r) s = .next (branched (.bne r) (!s.flags.z) r s) ∧
    exec (.bmi r) s = .next (branched (.bmi r) s.flags.n r s) ∧
    exec (.bpl r) s = .next (branched (.bpl r) (!s.flags.n) r s) ∧
    exec (.bvc r) s = .next (branched (.bvc r) (!s.flags.v) r s) ∧
    exec (.bvs r) s = .next (branched (.bvs r) s.flags.v r s)

/-- JMP absolute goes to its operand; JMP indirect to the content of its pointer, whose high byte comes from the pointer's own
page when JMP_IND_PAGE_WRAP is true and from the next address otherwise. -/
def Obligations.JumpsSetPc : Prop :=
  ∀ (w : Word) (s : State),
    (Instr.jmpAbs w).opcode = 0x4C ∧ (Instr.jmpInd w).opcode = 0x6C ∧
    exec (.jmpAbs w) s = .next { stepped (.jmpAbs w) 0 s with pc := w } ∧
    let p := w.toNat
    let h := if s.cfg.jmpIndPageWrap then p / 256 * 256 + (p % 256 + 1) % 256 else (p + 1) % 65536
    exec (.jmpInd w) s = .next { stepped (.jmpInd w) 0 (looks [p, h] s) with
      pc := BitVec.ofNat 16 (numberAt s p h) }

/-- JSR pushes the address of its own last byte, high byte first, and jumps. -/
def Obligations.JsrPushesTheReturnAddress : Prop :=
  ∀ (w : Word) (s : State),
    (Instr.jsr w).opcode = 0x20 ∧
    exec (.jsr w) s =
      .next { pushed [hi (s.pc + 2), lo (s.pc + 2)] (stepped (.jsr w) 0 s) with pc := w }

/-- RTS pops an address, low byte first, and goes one past it modulo 65536. -/
def Obligations.RtsPopsTheReturnAddress : Prop :=
  Instr.rts.opcode = 0x60 ∧
  ∀ s : State,
    exec .rts s = .next { stepped .rts 0 (pulled 2 s) with
      pc := BitVec.ofNat 16 ((popped s 1).toNat + 256 * (popped s 2).toNat + 1) }

/-- Where the stack page is RAM (R302 c), an RTS with the SP that a JSR left and its two stack cells untouched returns to the
instruction after the JSR. The sentence of R253 that the spec marks as derived. -/
def Obligations.RtsUndoesJsr : Prop :=
  ∀ (w : Word) (s t u : State), s.bus.low.ram.wf → s.bus.low.ramPages → exec (.jsr w) s = .next t → u.sp = t.sp →
    (∀ k < 2, popped u (k + 1) = popped t (k + 1)) →
    ∃ r, exec .rts u = .next r ∧ r.pc = s.pc + 3 ∧ r.sp = s.sp

/-- BRK: the return address skips one byte, the status byte has bit 4 set, B and I are set, and PC goes through VEC_IRQ. -/
def Obligations.BrkEntersTheHandler : Prop :=
  Instr.brk.opcode = 0x00 ∧
  ∀ s : State,
    exec .brk s =
      .next { throughVector s.cfg.vecIrq
          (pushed [hi (s.pc + 2), lo (s.pc + 2), s.flags.pack true] (stepped .brk 0 s)) with
        flags := { s.flags with b := true, i := true } }

/-- RTI pops the status byte, then the address low byte first, without increment. -/
def Obligations.RtiLeavesTheHandler : Prop :=
  Instr.rti.opcode = 0x40 ∧
  ∀ s : State,
    exec .rti s = .next { stepped .rti 0 (pulled 3 s) with
      flags := Flags.unpack (popped s 1)
      pc := BitVec.ofNat 16 ((popped s 2).toNat + 256 * (popped s 3).toNat) }

/-! ## Interrupts, RESET, the fault -/

/-- The sequence of R279 for any vector; and an IRQ with I = 0 and nothing before it in priority: a step that is that sequence
through VEC_IRQ and clears the request. -/
def Obligations.IrqStepEntersTheHandler : Prop :=
  (∀ (vec : Word) (s : State),
    interruptEntry vec s =
      { throughVector vec (pushed [hi s.pc, lo s.pc, s.flags.pack false] s) with
        flags := { s.flags with i := true }
        cycles := s.cycles + 7 }) ∧
  ∀ s : State, s.fault = none → s.resetPending = false → s.nmiPending = false → s.irqPending = true →
    s.flags.i = false →
    step s =
      .next { throughVector s.cfg.vecIrq
          (pushed [hi s.pc, lo s.pc, s.flags.pack false] { s with busTrace := [] }) with
        flags := { s.flags with i := true }
        irqPending := false
        cycles := s.cycles + 7 }

/-- An NMI without a RESET request: a step that is the interrupt sequence whatever I is, and leaves a pending IRQ pending. -/
def Obligations.NmiStepEntersTheHandler : Prop :=
  ∀ s : State, s.fault = none → s.resetPending = false → s.nmiPending = true →
    step s =
      .next { throughVector s.cfg.vecNmi
          (pushed [hi s.pc, lo s.pc, s.flags.pack false] { s with busTrace := [] }) with
        flags := { s.flags with i := true }
        nmiPending := false
        cycles := s.cycles + 7 }

/-- A RESET request is served first: registers and flags at their RESET values, all latches clear, PC through VEC_RESET, 7
cycles, no memory written and the bank selection kept. -/
def Obligations.ResetStepReinitialises : Prop :=
  ∀ s : State, s.fault = none → s.resetPending = true →
    step s =
      .next { throughVector s.cfg.vecReset { s with busTrace := [] } with
        a := 0x00, x := 0x00, y := 0x00, sp := 0xFD
        flags := { c := false, z := false, i := true, d := false, b := false, v := false, n := false }
        resetPending := false, nmiPending := false, irqPending := false
        cycles := s.cycles + 7 }

/-- A masked IRQ keeps no step from its instruction and stays pending. -/
def Obligations.MaskedIrqStaysPending : Prop :=
  ∀ s : State, s.resetPending = false → s.nmiPending = false → s.irqPending = true → s.flags.i = true →
    s.quiet ∧ ∀ t, step s = .next t → t.irqPending = true

/-- Where the stack page is RAM (R302 c), RTI from an interrupt handler, with the SP and the three stacked bytes that the
sequence left, resumes the displaced instruction with every flag restored; B alone becomes 0, the value of bit 4 in the
stacked byte. -/
def Obligations.RtiResumesTheInterruptedCode : Prop :=
  ∀ (s t u : State) (vec : Word), s.bus.low.ram.wf → s.bus.low.ramPages → t = interruptEntry vec s → u.sp = t.sp →
    (∀ k < 3, popped u (k + 1) = popped t (k + 1)) →
    ∃ r, exec .rti u = .next r ∧ r.pc = s.pc ∧ r.sp = s.sp ∧ r.flags = { s.flags with b := false }

/-- Where the stack page is RAM (R302 c), after entry a handler tells BRK from IRQ and NMI by bit 4 of the status byte on the
stack, whatever B held (PHP pushes it as BRK does); next to it lies the address: two past the opcode for BRK, the displaced
instruction for an interrupt. -/
def Obligations.StackedBit4TellsBrkFromIrq : Prop :=
  ∀ (s t : State) (vec : Word), s.bus.low.ram.wf → s.bus.low.ramPages →
    ((popped (interruptEntry vec s) 1).getLsbD 4 = false ∧
      word (popped (interruptEntry vec s) 3) (popped (interruptEntry vec s) 2) = s.pc) ∧
    (exec .brk s = .next t → (popped t 1).getLsbD 4 = true ∧ word (popped t 3) (popped t 2) = s.pc + 2) ∧
    (exec .php s = .next t → (popped t 1).getLsbD 4 = true)

/-- An unsupported byte stops the machine with UnsupportedOpcode(op, pc0), whatever byte it is: the record is set and nothing
else changes; the step's one access is the fetch of the opcode. -/
def Obligations.UnsupportedOpcodeFaults : Prop :=
  (∀ (op : Byte) (s : State),
    exec (.unsupported op) s = .fault (.unsupportedOpcode op s.pc { s with fault := some ⟨op, s.pc⟩ })) ∧
  ∀ (s : State), s.fault = none → s.quiet → byteAt s s.pc.toNat ∈ unsupportedOpcodes →
    step s = .fault (.unsupportedOpcode (byteAt s s.pc.toNat) s.pc
      { look s.pc.toNat { s with busTrace := [] } with fault := some ⟨byteAt s s.pc.toNat, s.pc⟩ })

/-- A faulted state is a fixed point: whatever is requested, a step answers the recorded fault again and leaves every part of
the state. The requests still set their latches and clear nothing; the host's bus calls still work and keep the record. -/
def Obligations.FaultIsSticky : Prop :=
  ∀ (s : State) (op : Byte) (pc : Word), s.fault = some ⟨op, pc⟩ →
    step s = .fault (.unsupportedOpcode op pc s) ∧
    s.requestReset = { s with resetPending := true } ∧ s.requestNmi = { s with nmiPending := true } ∧
    s.requestIrq = { s with irqPending := true } ∧
    step s.requestReset = .fault (.unsupportedOpcode op pc s.requestReset) ∧
    (∀ a : Word, s.readBus a = (s.bus.read a, { s with bus := s.bus.afterRead a })) ∧
    (∀ (a : Word) (v : Byte), s.writeBus a v = { s with bus := s.bus.write s.cfg a v }) ∧
    ∀ (a : Word) (n : Nat), 0x8000 ≤ a.toNat → s.readPrg a n = some ((s.bus.visiblePrg.drop (a.toNat - 0x8000)).take n)

/-- A step faults exactly when the machine has faulted, or when nothing is pending and the byte at PC is unsupported; it is
never refused. -/
def Obligations.StepFaultsOnlyOnUnsupportedBytes : Prop :=
  ∀ s : State,
    ((∃ f, step s = .fault f) ↔
      (s.fault ≠ none ∨ s.quiet ∧ byteAt s s.pc.toNat ∈ unsupportedOpcodes)) ∧
    ∀ r, step s ≠ .refused r

/-! ## Memory, mapper, cartridge -/

/-- Whatever LowBus is (log 5): a byte written to RAM is what every later read of that cell gives, at each of its mirrors, every
other address reads as before, and a read of RAM or of a window has no side effect. A device answers as an oracle of all that
the devices have seen (the model's form of it), sees each access once, and no access to it changes RAM. With flat RAM, the
reference value, a write is read back at its own address alone. -/
def Obligations.RamReadsBackWhatIsWritten : Prop :=
  ∀ (b : Bus) (cfg : Params) (a j : Word) (v : Byte), b.low.ram.wf → a.toNat < 0x8000 →
    (∀ c, b.low.target a = .cell c →
      (b.write cfg a v).read j = (if j.toNat < 0x8000 ∧ b.low.target j = .cell c then v else b.read j) ∧
      b.afterRead a = b) ∧
    (∀ k, b.low.target a = .device k →
      b.read a = Config.deviceRead k b.low.history a ∧
      b.afterRead a = { b with low := { b.low with history := b.low.history ++ [.read a (b.read a)] } } ∧
      b.write cfg a v = { b with low := { b.low with history := b.low.history ++ [.write a v] } }) ∧
    (b.low.map = [] → (b.write cfg a v).read j = if j = a then v else b.read j) ∧
    (0x8000 ≤ j.toNat → b.afterRead j = b)

/-- A write at 0x8000 or above never reaches LowBus and never changes ROM; in the control range it selects banks that exist,
elsewhere it is ignored. -/
def Obligations.WindowWritesOnlySelectBanks : Prop :=
  ∀ (b : Bus) (cfg : Params) (a : Word) (v : Byte), 0x8000 ≤ a.toNat →
    (b.write cfg a v).low = b.low ∧ (b.write cfg a v).cart = b.cart ∧
    (cfg.ctrlLo.toNat ≤ a.toNat ∧ a.toNat ≤ cfg.ctrlHi.toNat →
      (b.write cfg a v).pages = bankSelect cfg.bankSelect a v b.pages b.cart.prgRomPages) ∧
    (Pages.valid b.pages b.cart.prgRomPages → Pages.valid (b.write cfg a v).pages b.cart.prgRomPages) ∧
    (a.toNat < cfg.ctrlLo.toNat ∨ cfg.ctrlHi.toNat < a.toNat → b.write cfg a v = b)

/-- The window reads: bank * 16384 + address mod 16384, always inside the program ROM of a good bus. -/
def Obligations.WindowsTranslateThroughTheBanks : Prop :=
  ∀ (b : Bus) (a : Word), b.wf → 0x8000 ≤ a.toNat →
    let k := (if a.toNat ≤ 0xBFFF then b.pages.lower else b.pages.upper) * 16384 + a.toNat % 16384
    translate b.pages a = some k ∧ k < b.cart.prgRomPages * 16384 ∧ b.read a = b.cart.prgRom.read k

/-- With the reference BankSelect, writing a value in the control range and reading the lower window gives the newly selected
bank; the upper window stays. The reference is one choice of the parameter (log 2). -/
def Obligations.BankSwitchShowsTheNewBank : Prop :=
  ∀ (b : Bus) (cfg : Params) (a j : Word) (v : Byte), cfg.bankSelect = .reference → 0x8000 ≤ a.toNat → cfg.ctrlLo.toNat ≤ a.toNat →
    a.toNat ≤ cfg.ctrlHi.toNat →
    (0x8000 ≤ j.toNat → j.toNat < 0xC000 →
      (b.write cfg a v).read j =
        b.cart.prgRom.read (v.toNat % b.cart.prgRomPages * 16384 + j.toNat % 16384)) ∧
    (0xC000 ≤ j.toNat → (b.write cfg a v).read j = b.read j)

/-- The visible program ROM is what the CPU reads at 0x8000 and up, and `read_prg` returns that slice clipped at its end. The
first clause is the sentence of R72 that the spec marks as derived; the answer none below 0x8000 is the model's (log 18). -/
def Obligations.VisibleRomIsWhatTheCpuReads : Prop :=
  (∀ (b : Bus) (k : Nat), k < 32768 → b.visiblePrg[k]? = some (b.read (BitVec.ofNat 16 (0x8000 + k)))) ∧
  (∀ (s : State) (pc : Word) (n : Nat), 0x8000 ≤ pc.toNat →
    s.readPrg pc n = some ((s.bus.visiblePrg.drop (pc.toNat - 0x8000)).take n)) ∧
  (∀ (s : State) (pc : Word) (n : Nat), pc.toNat < 0x8000 → s.readPrg pc n = none)

/-- The four load errors and the refusal of an image without program ROM, each when the earlier checks pass. The name of the
refusal is the model's (log 17). -/
def Obligations.LoadErrorsInOrder : Prop :=
  ∀ (id : Byte) (bytes : List Byte),
    (bytes.take 4 ≠ [0x4E, 0x45, 0x53, 0x1A] → load id bytes = .error .invalidHeader) ∧
    (bytes.take 4 = [0x4E, 0x45, 0x53, 0x1A] → bytes.length < 16 → load id bytes = .error .truncatedImage) ∧
    (bytes.take 4 = [0x4E, 0x45, 0x53, 0x1A] → 16 ≤ bytes.length →
      ((headerByte bytes 7).getLsbD 2 = true → load id bytes = .error .unsupportedFormat) ∧
      ((headerByte bytes 7).getLsbD 2 = false →
        ((∃ k, 11 ≤ k ∧ k ≤ 15 ∧ headerByte bytes k ≠ 0) → load id bytes = .error .unsupportedFormat) ∧
        ((∀ k, 11 ≤ k → k ≤ 15 → headerByte bytes k = 0) →
          let mapper := (headerByte bytes 6).toNat / 16 + 16 * ((headerByte bytes 7).toNat / 16)
          (mapper ≠ id.toNat → load id bytes = .error .unsupportedMapper) ∧
          (mapper = id.toNat →
            (headerByte bytes 4 = 0 → load id bytes = .error .noProgramRom) ∧
            (headerByte bytes 4 ≠ 0 →
              let needed := 16 + trainerLength (headerByte bytes 6) + (headerByte bytes 4).toNat * 16384
                + (headerByte bytes 5).toNat * 8192
              (bytes.length < needed → load id bytes = .error .truncatedImage) ∧
              (needed ≤ bytes.length → ∃ c, load id bytes = .ok c))))))

/-- A well-formed image loads: the header, the trainer iff its bit is set, the program ROM and the character ROM in that order,
byte for byte, whatever follows them. -/
def Obligations.LoadReadsTheSections : Prop :=
  ∀ (id : Byte) (h tr prg chr tail : List Byte), h.length = 16 → h.take 4 = [0x4E, 0x45, 0x53, 0x1A] →
    (headerByte h 7).getLsbD 2 = false → (∀ k, 11 ≤ k → k ≤ 15 → headerByte h k = 0) →
    mapperIdOf (headerByte h 6) (headerByte h 7) = id → headerByte h 4 ≠ 0 →
    tr.length = (if (headerByte h 6).getLsbD 2 then 512 else 0) →
    prg.length = (headerByte h 4).toNat * 16384 → chr.length = (headerByte h 5).toNat * 8192 →
    load id (h ++ tr ++ prg ++ chr ++ tail) =
      .ok { header := h, prgRom := ofBytes prg, chrRom := ofBytes chr
            trainer := if (headerByte h 6).getLsbD 2 then some (ofBytes tr) else none } ∧
    (∀ k, k < prg.length → some ((ofBytes prg).read k) = prg[k]?)

/-- What loads is a good cartridge with the accepted mapper id, and the machine powered on with it and with any launch value of
LowBus has the values of R40 and meets the invariant of a run. PC is read from the bus of that launch value, low byte first; the
map and the RAM of LowBus stay, and with the vector in the windows all of it does. -/
def Obligations.BootGivesAGoodMachine : Prop :=
  ∀ (cfg : Params) (bytes : List Byte) (low : LowBus) (s : State), low.ram.wf → low.ram.within 0x8000 →
    boot cfg bytes low = .ok s →
    let b : Bus := { cart := s.bus.cart, pages := s.bus.pages, low := low }
    s.Inv ∧ s.bus.cart.mapperId = cfg.mapperId ∧ s.cfg = cfg ∧
    s.a = 0 ∧ s.x = 0 ∧ s.y = 0 ∧ s.sp = 0xFD ∧
    s.flags = { c := false, z := false, i := true, d := false, b := false, v := false, n := false } ∧
    s.resetPending = false ∧ s.nmiPending = false ∧ s.irqPending = false ∧ s.cycles = 0 ∧ s.fault = none ∧
    s.bus.pages = initPages cfg.initPages s.bus.cart.prgRomPages ∧
    (cfg.initPages = .reference → s.bus.pages = ⟨0, s.bus.cart.prgRomPages - 1⟩) ∧
    s.pc = word ((b.afterRead cfg.vecReset).read (cfg.vecReset + 1)) (b.read cfg.vecReset) ∧
    s.bus = (b.afterRead cfg.vecReset).afterRead (cfg.vecReset + 1) ∧
    s.bus.low.map = low.map ∧ s.bus.low.ram = low.ram ∧
    (0x8000 ≤ cfg.vecReset.toNat → cfg.vecReset.toNat < 0xFFFF → s.bus.low = low)

/-- The host's requests set one latch each; its bus calls are a bus read and a bus write and change no register, flag, latch or
cycle count; all of them keep the invariant. -/
def Obligations.HostCallsTouchOnlyTheirTarget : Prop :=
  ∀ (s : State) (a : Word) (v : Byte),
    s.requestIrq = { s with irqPending := true } ∧ s.requestNmi = { s with nmiPending := true } ∧
    s.requestReset = { s with resetPending := true } ∧
    s.readBus a = (s.bus.read a, { s with bus := s.bus.afterRead a }) ∧ s.writeBus a v = { s with bus := s.bus.write s.cfg a v } ∧
    (s.Inv → s.requestIrq.Inv ∧ s.requestNmi.Inv ∧ s.requestReset.Inv ∧ (s.readBus a).2.Inv ∧ (s.writeBus a v).Inv)

/-! ## The whole machine -/

/-- The values right after power-on that R40 gives, in the reset state; PC is what the blank cartridge of log 7 has at the RESET
vector (the model's choice). -/
def Obligations.ResetStateValues : Prop :=
  State.reset.a = 0 ∧ State.reset.x = 0 ∧ State.reset.y = 0 ∧ State.reset.sp = 0xFD ∧
  State.reset.flags = { c := false, z := false, i := true, d := false, b := false, v := false, n := false } ∧
  State.reset.resetPending = false ∧ State.reset.nmiPending = false ∧ State.reset.irqPending = false ∧
  State.reset.cycles = 0 ∧ State.reset.fault = none ∧
  State.reset.bus.pages = ⟨0, State.reset.bus.cart.prgRomPages - 1⟩ ∧
  State.reset.pc = State.reset.bus.read16 State.reset.cfg.vecReset

/-- The reset state meets the invariant of a run. -/
def Obligations.ResetMeetsTheInvariant : Prop := State.reset.Inv

/-- Every step keeps the invariant: RAM stays canonical and below the windows, the bank selection stays valid, the cartridge
stays a loaded image, no fault is recorded in a next state. -/
def Obligations.EveryStepKeepsTheInvariant : Prop :=
  ∀ s t : State, s.Inv → step s = .next t → t.Inv

/-- No step ever changes the cartridge image, the configuration or the map of LowBus. After a step no RESET and no NMI request
is pending: the step served it, or it was a RESET, which clears all three latches. An IRQ request is pending exactly when it
was and the step neither was a RESET nor served it: an NMI came first, or I masked it. The devices of LowBus have seen exactly
the accesses of the step that reach them, in their order. -/
def Obligations.NoStepChangesTheCartridge : Prop :=
  ∀ s t : State, step s = .next t →
    t.bus.cart = s.bus.cart ∧ t.cfg = s.cfg ∧ t.bus.low.map = s.bus.low.map ∧ t.fault = none ∧
    t.resetPending = false ∧ t.nmiPending = false ∧
    t.irqPending = (!s.resetPending && s.irqPending && (s.nmiPending || s.flags.i)) ∧
    t.bus.low.history = s.bus.low.history ++ t.busTrace.filter s.bus.low.deviceAccess

/-- The bank selection changes only by a store or read-modify-write instruction whose effective address is in the control
range. -/
def Obligations.OnlyControlWritesSwitchBanks : Prop :=
  ∀ (i : Instr) (s t : State), exec i s = .next t → t.bus.pages ≠ s.bus.pages →
    i.mnemonic ∈ [.sta, .stx, .sty, .inc, .dec, .asl, .lsr, .rol, .ror] ∧
    ∃ m, i.operand = .mem m ∧ 0x8000 ≤ ea m s ∧ s.cfg.ctrlLo.toNat ≤ ea m s ∧ ea m s ≤ s.cfg.ctrlHi.toNat

/-- Which instructions can change each flag: the writers of R42 and no others. The table of R42 is marked as derived by the
spec. -/
def Obligations.FlagWritersAreTheListed : Prop :=
  ∀ (i : Instr) (s t : State), exec i s = .next t →
    (t.flags.c ≠ s.flags.c →
      i.mnemonic ∈ [.adc, .sbc, .cmp, .cpx, .cpy, .asl, .lsr, .rol, .ror, .clc, .sec, .plp, .rti]) ∧
    (t.flags.z ≠ s.flags.z ∨ t.flags.n ≠ s.flags.n →
      i.mnemonic ∈ [.lda, .ldx, .ldy, .tax, .tay, .txa, .tya, .tsx, .pla, .and, .ora, .eor, .asl, .lsr, .rol, .ror, .inc, .inx,
        .iny, .dec, .dex, .dey, .cmp, .cpx, .cpy, .adc, .sbc, .bit, .plp, .rti]) ∧
    (t.flags.i ≠ s.flags.i → i.mnemonic ∈ [.sei, .cli, .brk, .plp, .rti]) ∧
    (t.flags.d ≠ s.flags.d → i.mnemonic ∈ [.sed, .cld, .plp, .rti]) ∧
    (t.flags.b ≠ s.flags.b → i.mnemonic ∈ [.brk, .plp, .rti]) ∧
    (t.flags.v ≠ s.flags.v → i.mnemonic ∈ [.adc, .sbc, .bit, .clv, .plp, .rti])

/-- Which instructions can change A, X, Y, SP and RAM: the ones whose rules write them and no others. -/
def Obligations.RegisterWritersAreTheListed : Prop :=
  ∀ (i : Instr) (s t : State), exec i s = .next t →
    (t.a ≠ s.a → i.mnemonic ∈ [.adc, .sbc, .and, .ora, .eor, .lda, .pla, .txa, .tya] ∨
      i.mnemonic ∈ [.asl, .lsr, .rol, .ror] ∧ i.operand = .acc) ∧
    (t.x ≠ s.x → i.mnemonic ∈ [.ldx, .tax, .tsx, .inx, .dex]) ∧
    (t.y ≠ s.y → i.mnemonic ∈ [.ldy, .tay, .iny, .dey]) ∧
    (t.sp ≠ s.sp → i.mnemonic ∈ [.pha, .php, .pla, .plp, .txs, .jsr, .rts, .brk, .rti]) ∧
    (t.bus.low.ram ≠ s.bus.low.ram →
      i.mnemonic ∈ [.sta, .stx, .sty, .inc, .dec, .asl, .lsr, .rol, .ror, .pha, .php, .jsr, .brk])

/-- The base cycle count of every opcode at the reference BaseCycles by its class and mode, and the read-class opcodes that
pay for a page cross. -/
def Obligations.BaseCyclesFollowClassAndMode : Prop :=
  ∀ i : Instr, i.mnemonic ≠ .unsupported →
    baseCycles .reference i.opcode = cyclesOf i.mnemonic i.operand ∧
    (paysPageCross i.opcode = true ↔
      i.mnemonic ∈ [.lda, .ldx, .ldy, .adc, .sbc, .and, .ora, .eor, .cmp] ∧
      ∃ m, i.operand = .mem m ∧ ((∃ w, m = .abx w) ∨ (∃ w, m = .aby w) ∨ ∃ b, m = .izy b))
end

