-- ==== Sys2Proof/Laws/Bits.lean ====
section
/-! SUPPORT. The byte and word operations of R7 as arithmetic. -/

namespace Sys2Proof.Machine

@[simp] theorem lo_toNat (w : Word) : (lo w).toNat = w.toNat % 256 := by
  simp [lo, BitVec.extractLsb'_toNat]

@[simp] theorem hi_toNat (w : Word) : (hi w).toNat = w.toNat / 256 := by
  have := w.isLt
  simp only [hi, BitVec.extractLsb'_toNat, Nat.shiftRight_eq_div_pow]
  omega

@[simp] theorem word_toNat (h l : Byte) : (word h l).toNat = h.toNat * 256 + l.toNat := by
  have := l.isLt
  have hl : l.toNat < 2 ^ 8 := l.isLt
  simp only [word, BitVec.toNat_append, Nat.shiftLeft_eq]
  rw [← Nat.shiftLeft_eq, ← Nat.shiftLeft_add_eq_or_of_lt hl, Nat.shiftLeft_eq]

@[simp] theorem zext_toNat (b : Byte) : (zext b).toNat = b.toNat := by
  have := b.isLt
  simp only [zext, BitVec.toNat_setWidth]
  omega

@[simp] theorem lo_word (h l : Byte) : lo (word h l) = l := by
  apply BitVec.eq_of_toNat_eq
  have := l.isLt
  simp only [lo_toNat, word_toNat]
  omega

@[simp] theorem hi_word (h l : Byte) : hi (word h l) = h := by
  apply BitVec.eq_of_toNat_eq
  have := l.isLt
  simp only [hi_toNat, word_toNat]
  omega

@[simp] theorem word_hi_lo (w : Word) : word (hi w) (lo w) = w := by
  apply BitVec.eq_of_toNat_eq
  simp only [lo_toNat, word_toNat, hi_toNat]
  omega

theorem samePage_iff (u w : Word) : samePage u w = true ↔ u.toNat / 256 = w.toNat / 256 := by
  simp only [samePage, beq_iff_eq, ← BitVec.toNat_inj, hi_toNat]

/-- `sext_16` is addition of the signed value modulo 65536. -/
theorem add_sext16_toNat (w : Word) (b : Byte) :
    (w + sext16 b).toNat = (((w.toNat : Int) + b.toInt) % 65536).toNat := by
  have hb := b.isLt
  have hw := w.isLt
  have h : (sext16 b).toNat = if 128 ≤ b.toNat then b.toNat + 65280 else b.toNat := by
    simp only [sext16, BitVec.toNat_signExtend, BitVec.msb_eq_decide, BitVec.toNat_setWidth]
    split <;> split <;> simp_all <;> omega
  have hi' : b.toInt = if 128 ≤ b.toNat then (b.toNat : Int) - 256 else b.toNat := by
    rw [BitVec.toInt_eq_toNat_cond]
    split <;> split <;> omega
  rw [BitVec.toNat_add, h, hi']
  split <;> omega

end Sys2Proof.Machine
end

