-- ==== Sys2Proof/Laws/Memory.lean ====
section
/-! SUPPORT. The laws of `Memory`: a read after a write, the canonical form kept by every operation, and byte sequences. -/

namespace Sys2Proof.Machine

/-- A read after a write: the byte written at its address, every other byte as before (R56). -/
theorem Memory.read_write (m : Memory) (hm : m.wf) (k j : Nat) (v : Byte) :
    Memory.read (Memory.write m k v) j = if j = k then v else Memory.read m j := by
  induction m with
  | nil =>
    unfold Memory.write
    split <;> split <;> simp_all [Memory.read, eq_comm]
  | cons c rest ih =>
    obtain ⟨a, w⟩ := c
    have hrest : Memory.wf rest := ⟨hm.1.of_cons, fun c hc => hm.2 c (List.mem_cons_of_mem _ hc)⟩
    have hlt : ∀ c ∈ rest, a < c.1 := fun c hc => List.rel_of_pairwise_cons hm.1 hc
    have habs : ∀ (l : Memory) (i : Nat), (∀ c ∈ l, i < c.1) → Memory.read l i = Memory.unlisted := by
      intro l i hl
      induction l with
      | nil => rfl
      | cons d t iht =>
        have hd := hl d (List.mem_cons_self ..)
        rw [Memory.read, if_neg (by omega), iht fun c hc => hl c (List.mem_cons_of_mem _ hc)]
    simp only [Memory.write]
    split
    · rename_i hka
      have hk : Memory.read rest k = Memory.unlisted := habs rest k fun c hc => by have := hlt c hc; omega
      split
      · by_cases hj : j = k
        · subst hj
          simp [Memory.read, show a ≠ j by omega, *]
        · simp [hj]
      · by_cases hj : j = k
        · simp [Memory.read, hj]
        · simp [Memory.read, hj, show k ≠ j by omega]
    · split
      · rename_i hak
        subst hak
        have hk : Memory.read rest a = Memory.unlisted := habs rest a hlt
        by_cases hj : j = a
        · subst hj
          split <;> simp [Memory.read, *]
        · split <;> simp [Memory.read, show a ≠ j by omega]
      · rename_i hak
        by_cases hja : a = j
        · subst hja
          simp [Memory.read, hak]
        · simp [Memory.read, hja, ih hrest]

/-- The addresses that a write can leave listed. -/
theorem Memory.mem_write {m : Memory} {k : Nat} {v : Byte} {c : Host.Cell} (h : c ∈ Memory.write m k v) :
    c = (k, v) ∧ v ≠ Memory.unlisted ∨ c ∈ m := by
  induction m with
  | nil =>
    unfold Memory.write at h
    split at h <;> simp_all
  | cons d rest ih =>
    obtain ⟨a, w⟩ := d
    simp only [Memory.write] at h
    split at h
    · split at h
      · exact .inr h
      · rcases List.mem_cons.1 h with h | h
        · exact .inl ⟨h, ‹_›⟩
        · exact .inr h
    · split at h
      · split at h
        · exact .inr (List.mem_cons_of_mem _ h)
        · rcases List.mem_cons.1 h with h | h
          · exact .inl ⟨h, ‹_›⟩
          · exact .inr (List.mem_cons_of_mem _ h)
      · rcases List.mem_cons.1 h with h | h
        · exact .inr (h ▸ List.mem_cons_self ..)
        · exact (ih h).imp_right (List.mem_cons_of_mem _)

/-- A write keeps the canonical form. -/
theorem Memory.write_wf {m : Memory} (hm : m.wf) (k : Nat) (v : Byte) : (Memory.write m k v).wf := by
  refine ⟨?_, fun c hc => ?_⟩
  · induction m with
    | nil =>
      unfold Memory.write
      split <;> simp
    | cons d rest ih =>
      obtain ⟨a, w⟩ := d
      have hrest : Memory.wf rest := ⟨hm.1.of_cons, fun c hc => hm.2 c (List.mem_cons_of_mem _ hc)⟩
      have hlt : ∀ c ∈ rest, a < c.1 := fun c hc => List.rel_of_pairwise_cons hm.1 hc
      simp only [Memory.write]
      split
      · split
        · exact hm.1
        · refine List.pairwise_cons.2 ⟨fun c hc => ?_, hm.1⟩
          rcases List.mem_cons.1 hc with h | h
          · subst h; assumption
          · have := hlt c h; show k < c.1; omega
      · split
        · split
          · exact hrest.1
          · refine List.pairwise_cons.2 ⟨fun c hc => ?_, hrest.1⟩
            have := hlt c hc; show k < c.1; omega
        · refine List.pairwise_cons.2 ⟨fun c hc => ?_, ih hrest⟩
          rcases Memory.mem_write hc with ⟨h, -⟩ | h
          · subst h; show a < k; omega
          · exact hlt c h
  · rcases Memory.mem_write hc with ⟨h, hv⟩ | h
    · subst h; exact hv
    · exact hm.2 c h

/-- A write below `n` lists nothing at or above `n`. -/
theorem Memory.write_within {m : Memory} {n k : Nat} (hm : m.within n) (hk : k < n) (v : Byte) :
    (Memory.write m k v).within n := fun c hc => by
  rcases Memory.mem_write hc with ⟨h, -⟩ | h
  · subst h; exact hk
  · exact hm c h

theorem Memory.ofBytesFrom_mem {k : Nat} {bs : List Byte} {c : Host.Cell} (h : c ∈ Memory.ofBytesFrom k bs) :
    k ≤ c.1 ∧ c.1 < k + bs.length ∧ c.2 ≠ Memory.unlisted := by
  induction bs generalizing k with
  | nil => simp [Memory.ofBytesFrom] at h
  | cons b rest ih =>
    simp only [Memory.ofBytesFrom] at h
    split at h
    · obtain ⟨h1, h2, h3⟩ := ih h
      exact ⟨by omega, by rw [List.length_cons]; omega, h3⟩
    · rcases List.mem_cons.1 h with h | h
      · subst h; simp_all
      · obtain ⟨h1, h2, h3⟩ := ih h
        exact ⟨by omega, by rw [List.length_cons]; omega, h3⟩

/-- A byte sequence is held in canonical form. -/
theorem Memory.ofBytesFrom_wf (k : Nat) (bs : List Byte) : (Memory.ofBytesFrom k bs).wf := by
  refine ⟨?_, fun c hc => (Memory.ofBytesFrom_mem hc).2.2⟩
  induction bs generalizing k with
  | nil => exact List.Pairwise.nil
  | cons b rest ih =>
    simp only [Memory.ofBytesFrom]
    split
    · exact ih (k + 1)
    · refine List.pairwise_cons.2 ⟨fun c hc => ?_, ih (k + 1)⟩
      have := Memory.ofBytesFrom_mem hc
      show k < c.1
      omega

/-- Byte `j` of a sequence placed from `k` is read at `j + k`. -/
theorem Memory.read_ofBytesFrom (k j : Nat) (bs : List Byte) :
    Memory.read (Memory.ofBytesFrom k bs) (k + j) = bs.getD j Memory.unlisted := by
  have hlow : ∀ (bs : List Byte) (k i : Nat), i < k → Memory.read (Memory.ofBytesFrom k bs) i = Memory.unlisted := by
    intro bs
    induction bs with
    | nil => intros; rfl
    | cons b rest ih =>
      intro k i hi
      simp only [Memory.ofBytesFrom]
      split
      · exact ih (k + 1) i (by omega)
      · rw [Memory.read, if_neg (by omega), ih (k + 1) i (by omega)]
  induction bs generalizing k j with
  | nil => simp [Memory.ofBytesFrom, Memory.read]
  | cons b rest ih =>
    simp only [Memory.ofBytesFrom]
    cases j with
    | zero =>
      split
      · rw [hlow rest (k + 1) (k + 0) (by omega)]; simp_all
      · simp [Memory.read]
    | succ j =>
      have := ih (k + 1) j
      rw [show k + (j + 1) = k + 1 + j by omega]
      split
      · simpa using this
      · rw [Memory.read, if_neg (by omega)]; simpa using this

theorem Memory.ofBytes_wf (bs : List Byte) : (Memory.ofBytes bs).wf := Memory.ofBytesFrom_wf 0 bs

theorem Memory.ofBytes_within (bs : List Byte) : (Memory.ofBytes bs).within bs.length := fun c hc => by
  have := Memory.ofBytesFrom_mem hc
  omega

/-- Byte `j` of a byte sequence is read at address `j`. -/
theorem Memory.read_ofBytes (j : Nat) (bs : List Byte) :
    Memory.read (Memory.ofBytes bs) j = bs.getD j Memory.unlisted := by
  simpa [Memory.ofBytes] using Memory.read_ofBytesFrom 0 j bs

@[simp] theorem Memory.slice_length (m : Memory) (k n : Nat) : (Memory.slice m k n).length = n := by
  induction n generalizing k with
  | zero => rfl
  | succ n ih => simp [Memory.slice, ih]

/-- Byte `j` of a slice. -/
theorem Memory.slice_getElem? (m : Memory) (k n j : Nat) :
    (Memory.slice m k n)[j]? = if j < n then some (Memory.read m (k + j)) else none := by
  induction n generalizing k j with
  | zero => simp [Memory.slice]
  | succ n ih =>
    cases j with
    | zero => simp [Memory.slice]
    | succ j =>
      simp only [Memory.slice, List.getElem?_cons_succ, ih]
      simp only [Nat.add_lt_add_iff_right, show k + 1 + j = k + (j + 1) by omega]

end Sys2Proof.Machine
end

