-- ==== Sys2Proof/Laws/LowBus.lean ====
section
/-! SUPPORT. The laws of `LowBus`: what a RAM cell gives back, what a device sees, and what no access changes. -/

namespace Sys2Proof.Machine

@[simp] theorem LowBus.afterRead_map (l : LowBus) (a : Word) : (l.afterRead a).map = l.map := by
  unfold LowBus.afterRead
  split <;> rfl

/-- A read never changes a RAM cell (R56). -/
@[simp] theorem LowBus.afterRead_ram (l : LowBus) (a : Word) : (l.afterRead a).ram = l.ram := by
  unfold LowBus.afterRead
  split <;> rfl

@[simp] theorem LowBus.write_map (a : Word) (v : Byte) (l : LowBus) : (l.write a v).map = l.map := by
  unfold LowBus.write
  split <;> rfl

@[simp] theorem LowBus.afterRead_target (l : LowBus) (a j : Word) : (l.afterRead a).target j = l.target j := by
  simp [LowBus.target]

@[simp] theorem LowBus.write_target (a : Word) (v : Byte) (l : LowBus) (j : Word) : (l.write a v).target j = l.target j := by
  simp [LowBus.target]

/-- With the reference map every address is its own cell (R56). -/
theorem LowBus.target_flat {l : LowBus} (h : l.map = []) (a : Word) : l.target a = .cell a.toNat := by
  simp [LowBus.target, h, targetIn]

/-- The reference map leaves the zero page and the stack page RAM (R302 c). -/
theorem LowBus.ramPages_flat {l : LowBus} (h : l.map = []) : l.ramPages := fun a b _ _ =>
  ⟨a.toNat, LowBus.target_flat h a, fun k => by
    rw [LowBus.target_flat h] at k
    injection k with k
    exact BitVec.toNat_inj.1 k⟩

/-- Every RAM cell has a number below 0x8000. -/
theorem targetIn_cell_lt (map : List LowRange) {a : Word} (h : a.toNat < 0x8000) {c : Nat} (hc : targetIn map a = .cell c) :
    c < 0x8000 := by
  induction map with
  | nil => cases hc; exact h
  | cons r rest ih =>
    unfold targetIn at hc
    split at hc
    · unfold rangeTarget at hc
      split at hc
      · cases hc; exact Nat.mod_lt _ (by decide)
      · cases hc
    · exact ih hc

theorem LowBus.read_cell {l : LowBus} {a : Word} {c : Nat} (h : l.target a = .cell c) : l.read a = l.ram.read c := by
  simp only [LowBus.read, h]

theorem LowBus.read_device {l : LowBus} {a : Word} {k : Nat} (h : l.target a = .device k) :
    l.read a = Config.deviceRead k l.history a := by
  simp only [LowBus.read, h]

/-- A read of RAM has no side effect (R56). -/
theorem LowBus.afterRead_cell {l : LowBus} {a : Word} {c : Nat} (h : l.target a = .cell c) : l.afterRead a = l := by
  simp only [LowBus.afterRead, h]

theorem LowBus.afterRead_device {l : LowBus} {a : Word} {k : Nat} (h : l.target a = .device k) :
    l.afterRead a = { l with history := l.history ++ [.read a (l.read a)] } := by
  simp only [LowBus.afterRead, h]

theorem LowBus.write_cell {l : LowBus} {a : Word} {c : Nat} (h : l.target a = .cell c) (v : Byte) :
    l.write a v = { l with ram := l.ram.write c v } := by
  simp only [LowBus.write, h]

theorem LowBus.write_device {l : LowBus} {a : Word} {k : Nat} (h : l.target a = .device k) (v : Byte) :
    l.write a v = { l with history := l.history ++ [.write a v] } := by
  simp only [LowBus.write, h]

/-- A byte written to a RAM cell is read back at every address of that cell, and no other address changes (R56). -/
theorem LowBus.read_write_cell {l : LowBus} (hw : l.ram.wf) {a : Word} {c : Nat} (h : l.target a = .cell c) (v : Byte) (j : Word) :
    (l.write a v).read j = if l.target j = .cell c then v else l.read j := by
  rw [LowBus.write_cell h]
  cases hj : l.target j with
  | cell d =>
    have hj' : LowBus.target { l with ram := l.ram.write c v } j = .cell d := hj
    rw [LowBus.read_cell hj', LowBus.read_cell hj, Memory.read_write _ hw]
    simp only [LowTarget.cell.injEq]
  | device k =>
    have hj' : LowBus.target { l with ram := l.ram.write c v } j = .device k := hj
    rw [LowBus.read_device hj', LowBus.read_device hj, if_neg (by simp)]

/-- A write to a device changes what no RAM address reads as. -/
theorem LowBus.read_write_device {l : LowBus} {a : Word} {k : Nat} (h : l.target a = .device k) (v : Byte) {j : Word} {d : Nat}
    (hj : l.target j = .cell d) : (l.write a v).read j = l.read j := by
  have hj' : (l.write a v).target j = .cell d := by simpa using hj
  rw [LowBus.read_cell hj', LowBus.read_cell hj, LowBus.write_device h]

/-- RAM reads as before after any read (R56). -/
theorem LowBus.read_afterRead_cell {l : LowBus} (a : Word) {j : Word} {d : Nat} (hj : l.target j = .cell d) :
    (l.afterRead a).read j = l.read j := by
  have hj' : (l.afterRead a).target j = .cell d := by simpa using hj
  rw [LowBus.read_cell hj', LowBus.read_cell hj, LowBus.afterRead_ram]

theorem LowBus.write_ram_wf {l : LowBus} (hw : l.ram.wf) (a : Word) (v : Byte) : (l.write a v).ram.wf := by
  unfold LowBus.write
  split
  · exact Memory.write_wf hw _ _
  · exact hw

theorem LowBus.write_ram_within {l : LowBus} (hw : l.ram.within 0x8000) {a : Word} (h : a.toNat < 0x8000) (v : Byte) :
    (l.write a v).ram.within 0x8000 := by
  cases ht : l.target a with
  | cell c => rw [LowBus.write_cell ht]; exact Memory.write_within hw (targetIn_cell_lt l.map h ht) v
  | device k => rw [LowBus.write_device ht]; exact hw

end Sys2Proof.Machine
end

