-- ==== Sys2Proof/Laws/Bus.lean ====
section
/-! SUPPORT. The laws of the bus: routing, RAM, the windows, bank selection, the devices' history, and what an access keeps. -/

namespace Sys2Proof.Machine

theorem translate_low (p : Pages) {a : Word} (h : a.toNat < 0x8000) : translate p a = none := by
  simp [translate, h]

/-- R71 as one formula over the two windows. -/
theorem translate_window (p : Pages) {a : Word} (h : 0x8000 ≤ a.toNat) :
    translate p a = some ((if a.toNat < 0xC000 then p.lower else p.upper) * prgPageSize + a.toNat % prgPageSize) := by
  unfold translate
  split
  · omega
  · split <;> rfl

theorem Bus.read_low (b : Bus) {a : Word} (h : a.toNat < 0x8000) : b.read a = b.low.read a := by
  simp [Bus.read, translate_low _ h]

theorem Bus.read_window (b : Bus) {a : Word} (h : 0x8000 ≤ a.toNat) :
    b.read a = b.cart.prgRom.read
      ((if a.toNat < 0xC000 then b.pages.lower else b.pages.upper) * prgPageSize + a.toNat % prgPageSize) := by
  simp only [Bus.read, translate_window _ h]

theorem Bus.afterRead_low (b : Bus) {a : Word} (h : a.toNat < 0x8000) :
    b.afterRead a = { b with low := b.low.afterRead a } := by
  simp [Bus.afterRead, translate_low _ h]

/-- A read of a window has no side effect (R53). -/
theorem Bus.afterRead_window (b : Bus) {a : Word} (h : 0x8000 ≤ a.toNat) : b.afterRead a = b := by
  simp [Bus.afterRead, translate_window _ h]

/-- A read of RAM has no side effect (R56). -/
theorem Bus.afterRead_cell (b : Bus) {a : Word} {c : Nat} (h : b.low.target a = .cell c) : b.afterRead a = b := by
  unfold Bus.afterRead
  split
  · rfl
  · rw [LowBus.afterRead_cell h]

@[simp] theorem Bus.afterRead_cart (b : Bus) (a : Word) : (b.afterRead a).cart = b.cart := by
  unfold Bus.afterRead
  split <;> rfl

@[simp] theorem Bus.afterRead_pages (b : Bus) (a : Word) : (b.afterRead a).pages = b.pages := by
  unfold Bus.afterRead
  split <;> rfl

@[simp] theorem Bus.afterRead_map (b : Bus) (a : Word) : (b.afterRead a).low.map = b.low.map := by
  unfold Bus.afterRead
  split
  · rfl
  · exact LowBus.afterRead_map _ _

@[simp] theorem Bus.afterRead_ram (b : Bus) (a : Word) : (b.afterRead a).low.ram = b.low.ram := by
  unfold Bus.afterRead
  split
  · rfl
  · exact LowBus.afterRead_ram _ _

theorem Bus.write_low (cfg : Params) {a : Word} (h : a.toNat < 0x8000) (v : Byte) (b : Bus) :
    b.write cfg a v = { b with low := b.low.write a v } := by
  simp [Bus.write, h]

/-- A bus write never changes the cartridge (R55). -/
@[simp] theorem Bus.write_cart (cfg : Params) (a : Word) (v : Byte) (b : Bus) : (b.write cfg a v).cart = b.cart := by
  unfold Bus.write
  split
  · rfl
  · split <;> rfl

/-- Only a write below 0x8000 reaches `LowBus` (R54). -/
theorem Bus.write_low_eq (cfg : Params) (a : Word) (v : Byte) (b : Bus) :
    (b.write cfg a v).low = if a.toNat < 0x8000 then b.low.write a v else b.low := by
  unfold Bus.write
  split
  · rfl
  · split <;> rfl

@[simp] theorem Bus.write_map (cfg : Params) (a : Word) (v : Byte) (b : Bus) : (b.write cfg a v).low.map = b.low.map := by
  rw [Bus.write_low_eq]
  split
  · exact LowBus.write_map _ _ _
  · rfl

/-- Only a write into the control range, at 0x8000 or above, changes the bank selection (R54, R74). -/
theorem Bus.write_pages (cfg : Params) (a : Word) (v : Byte) (b : Bus) :
    (b.write cfg a v).pages =
      if 0x8000 ≤ a.toNat ∧ cfg.ctrlLo.toNat ≤ a.toNat ∧ a.toNat ≤ cfg.ctrlHi.toNat then
        bankSelect cfg.bankSelect a v b.pages b.cart.prgRomPages
      else b.pages := by
  unfold Bus.write
  split
  · rw [if_neg]; omega
  · split
    · rw [if_pos]; omega
    · rw [if_neg]; omega

/-- A write to a RAM cell, seen through the bus (R56): every address of the cell gives the byte, every other what it gave. -/
theorem Bus.read_write_cell (cfg : Params) {a : Word} (h : a.toNat < 0x8000) (v : Byte) {b : Bus} (hb : b.low.ram.wf) {c : Nat}
    (hc : b.low.target a = .cell c) (j : Word) :
    (b.write cfg a v).read j = if j.toNat < 0x8000 ∧ b.low.target j = .cell c then v else b.read j := by
  rw [Bus.write_low cfg h]
  by_cases hj : j.toNat < 0x8000
  · rw [Bus.read_low _ hj, Bus.read_low _ hj, LowBus.read_write_cell hb hc]
    simp only [hj, true_and]
  · rw [if_neg (fun e => hj e.1), Bus.read_window _ (by omega), Bus.read_window _ (by omega)]

/-- A read changes what no RAM address and no window address reads as. -/
theorem Bus.read_afterRead (b : Bus) (a : Word) {j : Word} (h : 0x8000 ≤ j.toNat ∨ ∃ c, b.low.target j = .cell c) :
    (b.afterRead a).read j = b.read j := by
  by_cases hj : j.toNat < 0x8000
  · obtain ⟨c, hc⟩ := h.resolve_left (by omega)
    by_cases ha : a.toNat < 0x8000
    · rw [Bus.afterRead_low b ha, Bus.read_low _ hj, Bus.read_low _ hj, LowBus.read_afterRead_cell a hc]
    · rw [Bus.afterRead_window b (by omega)]
  · rw [Bus.read_window _ (by omega), Bus.read_window _ (by omega)]
    simp

/-- Every device access is added to the history, and nothing else is (R56, R60). -/
theorem Bus.afterRead_history (b : Bus) (a : Word) (v : Byte) (hv : v = b.read a) :
    (b.afterRead a).low.history = b.low.history ++ [Access.read a v].filter b.low.deviceAccess := by
  by_cases ha : a.toNat < 0x8000
  · rw [Bus.afterRead_low b ha]
    rw [Bus.read_low b ha] at hv
    cases ht : b.low.target a with
    | cell c => simp [LowBus.afterRead_cell ht, LowBus.deviceAccess, ht]
    | device k => simp [LowBus.afterRead_device ht, LowBus.deviceAccess, ht, ha, hv]
  · rw [Bus.afterRead_window b (by omega)]
    cases ht : b.low.target a <;> simp [LowBus.deviceAccess, ht, ha]

theorem Bus.write_history (cfg : Params) (a : Word) (v : Byte) (b : Bus) :
    (b.write cfg a v).low.history = b.low.history ++ [Access.write a v].filter b.low.deviceAccess := by
  rw [Bus.write_low_eq]
  by_cases ha : a.toNat < 0x8000
  · rw [if_pos ha]
    cases ht : b.low.target a with
    | cell c => simp [LowBus.write_cell ht, LowBus.deviceAccess, ht]
    | device k => simp [LowBus.write_device ht, LowBus.deviceAccess, ht, ha]
  · rw [if_neg ha]
    cases ht : b.low.target a <;> simp [LowBus.deviceAccess, ht, ha]

/-- Which accesses reach a device depends on the map alone. -/
theorem LowBus.deviceAccess_congr {l m : LowBus} (h : l.map = m.map) : l.deviceAccess = m.deviceAccess := by
  funext x
  simp only [LowBus.deviceAccess, LowBus.target, h]

/-- Every `BankSelect` names banks that exist (R74 a). -/
theorem bankSelect_valid (k : Choice) (a : Word) (v : Byte) {p : Pages} {n : Nat} (h : Pages.valid p n) :
    Pages.valid (bankSelect k a v p n) n := by
  have hn : 0 < n := by have := h.1; omega
  cases k with
  | reference => exact ⟨Nat.mod_lt _ hn, h.2⟩
  | other k => exact ⟨Nat.mod_lt _ hn, Nat.mod_lt _ hn⟩

/-- Every `InitPages` names banks that exist (R70). -/
theorem initPages_valid (k : Choice) {n : Nat} (h : 0 < n) : Pages.valid (initPages k n) n := by
  cases k with
  | reference => exact ⟨h, Nat.sub_lt h Nat.one_pos⟩
  | other k => exact ⟨Nat.mod_lt _ h, Nat.mod_lt _ h⟩

/-- A bus write keeps a good bus good. -/
theorem Bus.write_wf {b : Bus} (hb : b.wf) (cfg : Params) (a : Word) (v : Byte) : (b.write cfg a v).wf where
  cart := by simpa using hb.cart
  pages := by
    rw [Bus.write_pages, Bus.write_cart]
    split
    · exact bankSelect_valid _ a v hb.pages
    · exact hb.pages
  ram_canonical := by
    rw [Bus.write_low_eq]
    split
    · exact LowBus.write_ram_wf hb.ram_canonical _ _
    · exact hb.ram_canonical
  ram_below_windows := by
    rw [Bus.write_low_eq]
    split
    · exact LowBus.write_ram_within hb.ram_below_windows (by assumption) _
    · exact hb.ram_below_windows

/-- A read keeps a good bus good. -/
theorem Bus.afterRead_wf {b : Bus} (hb : b.wf) (a : Word) : (b.afterRead a).wf where
  cart := by simpa using hb.cart
  pages := by simpa using hb.pages
  ram_canonical := by simpa using hb.ram_canonical
  ram_below_windows := by simpa using hb.ram_below_windows

/-- In a good bus `translate` stays inside the program ROM (R71). -/
theorem translate_lt {b : Bus} (hb : b.wf) {a : Word} {k : Nat} (h : translate b.pages a = some k) :
    k < b.cart.prgRomPages * prgPageSize := by
  have hm : a.toNat % prgPageSize < prgPageSize := Nat.mod_lt _ (by decide)
  have key : ∀ p, p < b.cart.prgRomPages → p * prgPageSize + a.toNat % prgPageSize < b.cart.prgRomPages * prgPageSize := by
    intro p hp
    calc p * prgPageSize + a.toNat % prgPageSize < p * prgPageSize + prgPageSize := by omega
      _ = (p + 1) * prgPageSize := by rw [Nat.succ_mul]
      _ ≤ b.cart.prgRomPages * prgPageSize := Nat.mul_le_mul_right _ hp
  unfold translate at h
  split at h
  · exact absurd h (by simp)
  · split at h <;> cases h
    · exact key _ hb.pages.1
    · exact key _ hb.pages.2

end Sys2Proof.Machine
end

