-- ==== Sys2Proof/Laws/Decode.lean ====
section
/-! SUPPORT. What the decoder reads from an opcode byte and two operand bytes, said once: the mnemonic and the operand shape
depend on the opcode byte alone, and the encoder's opcode is the byte that was read. -/

namespace Sys2Proof

/-- The mnemonic is the opcode's alone (R105). -/
theorem decodeOp_mnemonic (op b1 b2 : Byte) : (decodeOp op b1 b2).mnemonic = (decodeOp op 0 0).mnemonic := by
  unfold decodeOp
  dsimp only
  split <;>
    simp only [decodeRow0, decodeRow1, decodeRow2, decodeRow3, decodeRow4, decodeRow5, decodeRow6, decodeRow7,
      decodeRow8, decodeRow9, decodeRowA, decodeRowB, decodeRowC, decodeRowD, decodeRowE, decodeRowF] <;>
    split <;> rfl

/-- The number of operand bytes is the opcode's alone (R102). -/
theorem decodeOp_width (op b1 b2 : Byte) : (decodeOp op b1 b2).operand.width = operandWidth op := by
  unfold operandWidth decodeOp
  dsimp only
  split <;>
    simp only [decodeRow0, decodeRow1, decodeRow2, decodeRow3, decodeRow4, decodeRow5, decodeRow6, decodeRow7,
      decodeRow8, decodeRow9, decodeRowA, decodeRowB, decodeRowC, decodeRowD, decodeRowE, decodeRowF] <;>
    split <;> rfl

/-- The encoder's opcode column gives back the byte that was decoded (R106, R107). -/
theorem decodeOp_opcode (op b1 b2 : Byte) : (decodeOp op b1 b2).opcode = op := by
  have key : ∀ n : Nat, op.toNat / 16 = n / 16 → op.toNat % 16 = n % 16 → n < 256 → (BitVec.ofNat 8 n : Byte) = op := by
    intro n h1 h2 h3
    apply BitVec.eq_of_toNat_eq
    rw [BitVec.toNat_ofNat]
    omega
  have hlt := op.isLt
  unfold decodeOp
  dsimp only
  split <;>
    simp only [decodeRow0, decodeRow1, decodeRow2, decodeRow3, decodeRow4, decodeRow5, decodeRow6, decodeRow7,
      decodeRow8, decodeRow9, decodeRowA, decodeRowB, decodeRowC, decodeRowD, decodeRowE, decodeRowF] <;>
    split <;> first | rfl | (rename_i h2; exact key _ (by first | omega | (simp only [imp_false] at *; omega)) h2 (by decide))

end Sys2Proof
end

