-- ==== Sys2Proof/Laws/State.lean ====
section
/-! SUPPORT. What each update of the state leaves in each field. -/

namespace Sys2Proof.Machine

@[simp] theorem State.look_a (w : Word) (s : State) : (s.look w).a = s.a := rfl
@[simp] theorem State.look_x (w : Word) (s : State) : (s.look w).x = s.x := rfl
@[simp] theorem State.look_y (w : Word) (s : State) : (s.look w).y = s.y := rfl
@[simp] theorem State.look_sp (w : Word) (s : State) : (s.look w).sp = s.sp := rfl
@[simp] theorem State.look_pc (w : Word) (s : State) : (s.look w).pc = s.pc := rfl
@[simp] theorem State.look_flags (w : Word) (s : State) : (s.look w).flags = s.flags := rfl
@[simp] theorem State.look_resetPending (w : Word) (s : State) : (s.look w).resetPending = s.resetPending := rfl
@[simp] theorem State.look_nmiPending (w : Word) (s : State) : (s.look w).nmiPending = s.nmiPending := rfl
@[simp] theorem State.look_irqPending (w : Word) (s : State) : (s.look w).irqPending = s.irqPending := rfl
@[simp] theorem State.look_cycles (w : Word) (s : State) : (s.look w).cycles = s.cycles := rfl
@[simp] theorem State.look_fault (w : Word) (s : State) : (s.look w).fault = s.fault := rfl
@[simp] theorem State.look_bus (w : Word) (s : State) : (s.look w).bus = s.bus.afterRead w := rfl
@[simp] theorem State.look_cfg (w : Word) (s : State) : (s.look w).cfg = s.cfg := rfl
@[simp] theorem State.look_busTrace (w : Word) (s : State) : (s.look w).busTrace = s.busTrace ++ [.read w (s.bus.read w)] := rfl

@[simp] theorem State.advance_a (n : Nat) (s : State) : (s.advance n).a = s.a := rfl
@[simp] theorem State.advance_x (n : Nat) (s : State) : (s.advance n).x = s.x := rfl
@[simp] theorem State.advance_y (n : Nat) (s : State) : (s.advance n).y = s.y := rfl
@[simp] theorem State.advance_sp (n : Nat) (s : State) : (s.advance n).sp = s.sp := rfl
@[simp] theorem State.advance_pc (n : Nat) (s : State) : (s.advance n).pc = s.pc + BitVec.ofNat 16 n := rfl
@[simp] theorem State.advance_flags (n : Nat) (s : State) : (s.advance n).flags = s.flags := rfl
@[simp] theorem State.advance_resetPending (n : Nat) (s : State) : (s.advance n).resetPending = s.resetPending := rfl
@[simp] theorem State.advance_nmiPending (n : Nat) (s : State) : (s.advance n).nmiPending = s.nmiPending := rfl
@[simp] theorem State.advance_irqPending (n : Nat) (s : State) : (s.advance n).irqPending = s.irqPending := rfl
@[simp] theorem State.advance_cycles (n : Nat) (s : State) : (s.advance n).cycles = s.cycles := rfl
@[simp] theorem State.advance_fault (n : Nat) (s : State) : (s.advance n).fault = s.fault := rfl
@[simp] theorem State.advance_bus (n : Nat) (s : State) : (s.advance n).bus = s.bus := rfl
@[simp] theorem State.advance_cfg (n : Nat) (s : State) : (s.advance n).cfg = s.cfg := rfl
@[simp] theorem State.advance_busTrace (n : Nat) (s : State) : (s.advance n).busTrace = s.busTrace := rfl

@[simp] theorem State.addCycles_a (n : Nat) (s : State) : (s.addCycles n).a = s.a := rfl
@[simp] theorem State.addCycles_x (n : Nat) (s : State) : (s.addCycles n).x = s.x := rfl
@[simp] theorem State.addCycles_y (n : Nat) (s : State) : (s.addCycles n).y = s.y := rfl
@[simp] theorem State.addCycles_sp (n : Nat) (s : State) : (s.addCycles n).sp = s.sp := rfl
@[simp] theorem State.addCycles_pc (n : Nat) (s : State) : (s.addCycles n).pc = s.pc := rfl
@[simp] theorem State.addCycles_flags (n : Nat) (s : State) : (s.addCycles n).flags = s.flags := rfl
@[simp] theorem State.addCycles_resetPending (n : Nat) (s : State) : (s.addCycles n).resetPending = s.resetPending := rfl
@[simp] theorem State.addCycles_nmiPending (n : Nat) (s : State) : (s.addCycles n).nmiPending = s.nmiPending := rfl
@[simp] theorem State.addCycles_irqPending (n : Nat) (s : State) : (s.addCycles n).irqPending = s.irqPending := rfl
@[simp] theorem State.addCycles_cycles (n : Nat) (s : State) : (s.addCycles n).cycles = s.cycles + n := rfl
@[simp] theorem State.addCycles_fault (n : Nat) (s : State) : (s.addCycles n).fault = s.fault := rfl
@[simp] theorem State.addCycles_bus (n : Nat) (s : State) : (s.addCycles n).bus = s.bus := rfl
@[simp] theorem State.addCycles_cfg (n : Nat) (s : State) : (s.addCycles n).cfg = s.cfg := rfl
@[simp] theorem State.addCycles_busTrace (n : Nat) (s : State) : (s.addCycles n).busTrace = s.busTrace := rfl

@[simp] theorem State.charge_a (op : Byte) (k : Bool) (s : State) : (s.charge op k).a = s.a := rfl
@[simp] theorem State.charge_x (op : Byte) (k : Bool) (s : State) : (s.charge op k).x = s.x := rfl
@[simp] theorem State.charge_y (op : Byte) (k : Bool) (s : State) : (s.charge op k).y = s.y := rfl
@[simp] theorem State.charge_sp (op : Byte) (k : Bool) (s : State) : (s.charge op k).sp = s.sp := rfl
@[simp] theorem State.charge_pc (op : Byte) (k : Bool) (s : State) : (s.charge op k).pc = s.pc := rfl
@[simp] theorem State.charge_flags (op : Byte) (k : Bool) (s : State) : (s.charge op k).flags = s.flags := rfl
@[simp] theorem State.charge_resetPending (op : Byte) (k : Bool) (s : State) : (s.charge op k).resetPending = s.resetPending := rfl
@[simp] theorem State.charge_nmiPending (op : Byte) (k : Bool) (s : State) : (s.charge op k).nmiPending = s.nmiPending := rfl
@[simp] theorem State.charge_irqPending (op : Byte) (k : Bool) (s : State) : (s.charge op k).irqPending = s.irqPending := rfl
@[simp] theorem State.charge_cycles (op : Byte) (k : Bool) (s : State) : (s.charge op k).cycles = s.cycles + (baseCycles s.cfg.baseCycles op + if k && paysPageCross op then 1 else 0) := rfl
@[simp] theorem State.charge_fault (op : Byte) (k : Bool) (s : State) : (s.charge op k).fault = s.fault := rfl
@[simp] theorem State.charge_bus (op : Byte) (k : Bool) (s : State) : (s.charge op k).bus = s.bus := rfl
@[simp] theorem State.charge_cfg (op : Byte) (k : Bool) (s : State) : (s.charge op k).cfg = s.cfg := rfl
@[simp] theorem State.charge_busTrace (op : Byte) (k : Bool) (s : State) : (s.charge op k).busTrace = s.busTrace := rfl

@[simp] theorem memWrite_a (a : Word) (v : Byte) (s : State) : (memWrite a v s).a = s.a := rfl
@[simp] theorem memWrite_x (a : Word) (v : Byte) (s : State) : (memWrite a v s).x = s.x := rfl
@[simp] theorem memWrite_y (a : Word) (v : Byte) (s : State) : (memWrite a v s).y = s.y := rfl
@[simp] theorem memWrite_sp (a : Word) (v : Byte) (s : State) : (memWrite a v s).sp = s.sp := rfl
@[simp] theorem memWrite_pc (a : Word) (v : Byte) (s : State) : (memWrite a v s).pc = s.pc := rfl
@[simp] theorem memWrite_flags (a : Word) (v : Byte) (s : State) : (memWrite a v s).flags = s.flags := rfl
@[simp] theorem memWrite_resetPending (a : Word) (v : Byte) (s : State) : (memWrite a v s).resetPending = s.resetPending := rfl
@[simp] theorem memWrite_nmiPending (a : Word) (v : Byte) (s : State) : (memWrite a v s).nmiPending = s.nmiPending := rfl
@[simp] theorem memWrite_irqPending (a : Word) (v : Byte) (s : State) : (memWrite a v s).irqPending = s.irqPending := rfl
@[simp] theorem memWrite_cycles (a : Word) (v : Byte) (s : State) : (memWrite a v s).cycles = s.cycles := rfl
@[simp] theorem memWrite_fault (a : Word) (v : Byte) (s : State) : (memWrite a v s).fault = s.fault := rfl
@[simp] theorem memWrite_bus (a : Word) (v : Byte) (s : State) : (memWrite a v s).bus = s.bus.write s.cfg a v := rfl
@[simp] theorem memWrite_cfg (a : Word) (v : Byte) (s : State) : (memWrite a v s).cfg = s.cfg := rfl
@[simp] theorem memWrite_busTrace (a : Word) (v : Byte) (s : State) : (memWrite a v s).busTrace = s.busTrace ++ [.write a v] := rfl

@[simp] theorem push_a (v : Byte) (s : State) : (push v s).a = s.a := rfl
@[simp] theorem push_x (v : Byte) (s : State) : (push v s).x = s.x := rfl
@[simp] theorem push_y (v : Byte) (s : State) : (push v s).y = s.y := rfl
@[simp] theorem push_sp (v : Byte) (s : State) : (push v s).sp = s.sp - 1 := rfl
@[simp] theorem push_pc (v : Byte) (s : State) : (push v s).pc = s.pc := rfl
@[simp] theorem push_flags (v : Byte) (s : State) : (push v s).flags = s.flags := rfl
@[simp] theorem push_resetPending (v : Byte) (s : State) : (push v s).resetPending = s.resetPending := rfl
@[simp] theorem push_nmiPending (v : Byte) (s : State) : (push v s).nmiPending = s.nmiPending := rfl
@[simp] theorem push_irqPending (v : Byte) (s : State) : (push v s).irqPending = s.irqPending := rfl
@[simp] theorem push_cycles (v : Byte) (s : State) : (push v s).cycles = s.cycles := rfl
@[simp] theorem push_fault (v : Byte) (s : State) : (push v s).fault = s.fault := rfl
@[simp] theorem push_bus (v : Byte) (s : State) : (push v s).bus = s.bus.write s.cfg (stackAddr s.sp) v := rfl
@[simp] theorem push_cfg (v : Byte) (s : State) : (push v s).cfg = s.cfg := rfl
@[simp] theorem push_busTrace (v : Byte) (s : State) : (push v s).busTrace = s.busTrace ++ [.write (stackAddr s.sp) v] := rfl

/-- A bus read gives the byte on the bus and makes the access. -/
@[simp] theorem memRead_eq (w : Word) (s : State) : memRead w s = (s.bus.read w, s.look w) := rfl

end Sys2Proof.Machine
end

