-- ==== Sys2Proof/Laws/Ops.lean ====
section
/-! SUPPORT. What each shared operation does, said once: the stack and 16-bit accesses, entering and leaving a handler, RESET,
and what every operation keeps. -/

namespace Sys2Proof.Machine

/-- The state after reads of the addresses `as`, one after another. -/
def State.looks (as : List Word) (s : State) : State := as.foldl (fun s a => s.look a) s

@[simp] theorem State.looks_nil (s : State) : s.looks [] = s := rfl
@[simp] theorem State.looks_cons (a : Word) (as : List Word) (s : State) : s.looks (a :: as) = (s.look a).looks as := rfl

theorem State.looks_append (as bs : List Word) (s : State) : s.looks (as ++ bs) = (s.looks as).looks bs :=
  List.foldl_append

/-- Reads change nothing but what `LowBus` has seen and the record of accesses. -/
theorem State.looks_frame (as : List Word) (s : State) :
    ∃ t, s.looks as = { s with bus := (s.looks as).bus, busTrace := s.busTrace ++ t } := by
  induction as generalizing s with
  | nil => exact ⟨[], by simp⟩
  | cons a as ih =>
    obtain ⟨t, ht⟩ := ih (s.look a)
    exact ⟨.read a (s.bus.read a) :: t, by rw [State.looks_cons, ht]; simp [State.look]⟩

/-- The two byte reads of `Read16` (R58). -/
theorem read16_eq (a : Word) (s : State) : read16 a s = (s.bus.read16 a, s.looks [a, a + 1]) := rfl

/-- A pop reads the cell above the old stack pointer (R32). -/
theorem pop_eq (s : State) :
    pop s = (s.bus.read (stackAddr (s.sp + 1)), { s with sp := s.sp + 1 }.look (stackAddr (s.sp + 1))) := rfl

/-- A 16-bit pop: low byte first (R32). -/
theorem pop16_eq (s : State) : pop16 s = (word (pop (pop s).2).1 (pop s).1, (pop (pop s).2).2) := rfl

/-- `0x0100 + SP` as a number: a cell of page 1 for every SP (R22). -/
@[simp] theorem stackAddr_toNat (sp : Byte) : (stackAddr sp).toNat = 256 + sp.toNat := by
  have := sp.isLt
  simp only [stackAddr, BitVec.toNat_add, zext_toNat, BitVec.ofNat_eq_ofNat, BitVec.toNat_ofNat]
  omega

theorem stackAddr_low (sp : Byte) : (stackAddr sp).toNat < 0x8000 := by
  have := sp.isLt
  simp only [stackAddr_toNat]
  omega

theorem stackAddr_inj {p q : Byte} : stackAddr p = stackAddr q ↔ p = q := by
  simp only [← BitVec.toNat_inj, stackAddr_toNat]
  omega

/-- A push seen through the bus: the pushed byte at every address of its cell, every other address as before (R31). -/
theorem push_read (v : Byte) (s : State) (h : s.bus.low.ram.wf) {c : Nat} (hc : s.bus.low.target (stackAddr s.sp) = .cell c)
    (j : Word) :
    (push v s).bus.read j = if j.toNat < 0x8000 ∧ s.bus.low.target j = .cell c then v else s.bus.read j := by
  rw [push_bus, Bus.read_write_cell _ (stackAddr_low _) _ h hc]

/-- Every stack cell is RAM where R302 (c) holds. -/
theorem LowBus.ramPages.stack {l : LowBus} (h : l.ramPages) (sp : Byte) : ∃ c, l.target (stackAddr sp) = .cell c := by
  have hlt : (stackAddr sp).toNat < 0x200 := by have := sp.isLt; simp only [stackAddr_toNat]; omega
  obtain ⟨c, hc, -⟩ := h _ _ hlt hlt
  exact ⟨c, hc⟩

/-- Where R302 (c) holds, a push changes one stack cell and a pop of it gives the byte back (R31, R32). -/
theorem push_read_stack (v : Byte) (s : State) (h : s.bus.low.ram.wf) (hr : s.bus.low.ramPages) (sp : Byte) :
    (push v s).bus.read (stackAddr sp) = if sp = s.sp then v else s.bus.read (stackAddr sp) := by
  have hlt : ∀ p : Byte, (stackAddr p).toNat < 0x200 := fun p => by have := p.isLt; simp only [stackAddr_toNat]; omega
  obtain ⟨c, hc, hu⟩ := hr _ _ (hlt s.sp) (hlt sp)
  rw [push_read v s h hc]
  by_cases e : sp = s.sp
  · rw [if_pos ⟨stackAddr_low sp, e ▸ hc⟩, if_pos e]
  · rw [if_neg (fun k => e (stackAddr_inj.1 (hu k.2))), if_neg e]

/-- Where R302 (c) holds, a pop has no side effect on the bus (R32, R56). -/
theorem pop_bus (s : State) (hr : s.bus.low.ramPages) : (pop s).2.bus = s.bus := by
  obtain ⟨c, hc⟩ := hr.stack (s.sp + 1)
  exact Bus.afterRead_cell s.bus hc

/-- What every operation of a step keeps: the configuration, the cartridge, the map of `LowBus`, the fault record, the latches,
and a good bus; and the devices see exactly the accesses recorded (R60, R85). -/
structure State.Keeps (s t : State) : Prop where
  cfg : t.cfg = s.cfg
  cart : t.bus.cart = s.bus.cart
  map : t.bus.low.map = s.bus.low.map
  fault : t.fault = s.fault
  resetPending : t.resetPending = s.resetPending
  nmiPending : t.nmiPending = s.nmiPending
  irqPending : t.irqPending = s.irqPending
  bus : s.bus.wf → t.bus.wf
  seen : ∃ xs, t.busTrace = s.busTrace ++ xs ∧ t.bus.low.history = s.bus.low.history ++ xs.filter s.bus.low.deviceAccess

theorem State.Keeps.trans {s t u : State} (h : s.Keeps t) (k : t.Keeps u) : s.Keeps u where
  cfg := k.cfg.trans h.cfg
  cart := k.cart.trans h.cart
  map := k.map.trans h.map
  fault := k.fault.trans h.fault
  resetPending := k.resetPending.trans h.resetPending
  nmiPending := k.nmiPending.trans h.nmiPending
  irqPending := k.irqPending.trans h.irqPending
  bus := fun w => k.bus (h.bus w)
  seen := by
    obtain ⟨xs, hx, hh⟩ := h.seen
    obtain ⟨ys, ky, kh⟩ := k.seen
    refine ⟨xs ++ ys, by rw [ky, hx, List.append_assoc], ?_⟩
    rw [kh, hh, LowBus.deviceAccess_congr h.map, List.filter_append, List.append_assoc]

/-- Operations that change only registers, flags and cycles keep everything else. -/
theorem State.Keeps.of_same {s t : State} (hc : t.cfg = s.cfg) (hb : t.bus = s.bus) (hf : t.fault = s.fault)
    (hr : t.resetPending = s.resetPending) (hn : t.nmiPending = s.nmiPending) (hi : t.irqPending = s.irqPending)
    (ht : t.busTrace = s.busTrace) : s.Keeps t :=
  ⟨hc, by rw [hb], by rw [hb], hf, hr, hn, hi, fun w => hb ▸ w, [], by simp [ht], by simp [hb]⟩

theorem State.Keeps.refl (s : State) : s.Keeps s := .of_same rfl rfl rfl rfl rfl rfl rfl

theorem look_keeps (a : Word) (s : State) : s.Keeps (s.look a) :=
  ⟨rfl, Bus.afterRead_cart _ _, Bus.afterRead_map _ _, rfl, rfl, rfl, rfl, fun h => Bus.afterRead_wf h a,
    _, rfl, Bus.afterRead_history _ _ _ rfl⟩

theorem looks_keeps (as : List Word) (s : State) : s.Keeps (s.looks as) := by
  induction as generalizing s with
  | nil => exact .refl s
  | cons a as ih => exact (look_keeps a s).trans (ih _)

theorem memRead_keeps (a : Word) (s : State) : s.Keeps (memRead a s).2 := look_keeps a s

theorem memWrite_keeps (a : Word) (v : Byte) (s : State) : s.Keeps (memWrite a v s) :=
  ⟨rfl, Bus.write_cart _ _ _ _, Bus.write_map _ _ _ _, rfl, rfl, rfl, rfl, fun h => Bus.write_wf h _ _ _,
    _, rfl, Bus.write_history _ _ _ _⟩

theorem push_keeps (v : Byte) (s : State) : s.Keeps (push v s) :=
  (memWrite_keeps _ v s).trans (.of_same rfl rfl rfl rfl rfl rfl rfl)

theorem push16_keeps (w : Word) (s : State) : s.Keeps (push16 w s) := (push_keeps _ _).trans (push_keeps _ _)

theorem pop_keeps (s : State) : s.Keeps (pop s).2 :=
  State.Keeps.trans (.of_same (t := { s with sp := s.sp + 1 }) rfl rfl rfl rfl rfl rfl rfl) (look_keeps _ _)

theorem pop16_keeps (s : State) : s.Keeps (pop16 s).2 := (pop_keeps s).trans (pop_keeps _)

theorem advance_keeps (n : Nat) (s : State) : s.Keeps (s.advance n) := .of_same rfl rfl rfl rfl rfl rfl rfl

theorem addCycles_keeps (n : Nat) (s : State) : s.Keeps (s.addCycles n) := .of_same rfl rfl rfl rfl rfl rfl rfl

theorem charge_keeps (op : Byte) (k : Bool) (s : State) : s.Keeps (s.charge op k) := .of_same rfl rfl rfl rfl rfl rfl rfl

/-- The state in which the handler's vector is read: after the three pushes (R255, R279). -/
theorem enterHandler_eq (ret : Word) (brk : Bool) (vec : Word) (s : State) :
    enterHandler ret brk vec s =
      let u := push (s.flags.pack brk) (push16 ret s)
      { u.looks [vec, vec + 1] with
        pc := u.bus.read16 vec
        flags := { s.flags with b := s.flags.b || brk, i := true } } := rfl

theorem enterHandler_keeps (ret : Word) (brk : Bool) (vec : Word) (s : State) : s.Keeps (enterHandler ret brk vec s) := by
  rw [enterHandler_eq]
  dsimp only
  have h := (push16_keeps ret s).trans (push_keeps (s.flags.pack brk) _)
  generalize push (s.flags.pack brk) (push16 ret s) = u at h ⊢
  have k := h.trans (looks_keeps [vec, vec + 1] u)
  generalize u.looks [vec, vec + 1] = w at k ⊢
  exact k.trans (.of_same rfl rfl rfl rfl rfl rfl rfl)

/-- RTI's three pops (R256). -/
theorem leaveHandler_eq (s : State) :
    leaveHandler s =
      { (pop16 (pop s).2).2 with pc := (pop16 (pop s).2).1, flags := Flags.unpack (pop s).1 } := rfl

theorem leaveHandler_keeps (s : State) : s.Keeps (leaveHandler s) := by
  rw [leaveHandler_eq]
  have h := (pop_keeps s).trans (pop16_keeps (pop s).2)
  generalize (pop16 (pop s).2).2 = u at h ⊢
  exact h.trans (.of_same rfl rfl rfl rfl rfl rfl rfl)

theorem interruptEntry_keeps (vec : Word) (s : State) : s.Keeps (interruptEntry vec s) :=
  (enterHandler_keeps _ _ _ _).trans (addCycles_keeps _ _)

/-- The RESET sequence (R278, R301): registers, flags and latches, PC through the vector, 7 cycles, and nothing else. -/
theorem resetSequence_eq (s : State) :
    resetSequence s =
      { s.looks [s.cfg.vecReset, s.cfg.vecReset + 1] with
        a := 0x00, x := 0x00, y := 0x00, sp := 0xFD, flags := resetFlags
        resetPending := false, nmiPending := false, irqPending := false
        pc := s.bus.read16 s.cfg.vecReset
        cycles := s.cycles + 7 } := rfl

end Sys2Proof.Machine
end

