-- ==== Sys2Proof/Laws/Operands.lean ====
section
/-! SUPPORT. What resolving an operand and the instruction shapes do, said once. -/

namespace Sys2Proof.Machine

theorem readPointer_eq (z : Byte) (s : State) :
    readPointer z s =
      (word ((s.look (zext z)).bus.read (zext (z + 1))) (s.bus.read (zext z)), s.looks [zext z, zext (z + 1)]) := rfl

theorem resolveInd_eq (ptr : Word) (s : State) :
    resolveInd ptr s =
      (word ((s.look ptr).bus.read (indHighAddr s.cfg.jmpIndPageWrap ptr)) (s.bus.read ptr),
        s.looks [ptr, indHighAddr s.cfg.jmpIndPageWrap ptr]) := rfl

/-- Resolving makes the pointer reads of its mode and nothing else: "it never writes" (R130). -/
theorem resolve_frame (m : MemMode) (s : State) : ∃ as, (resolve m s).2 = s.looks as := by
  cases m
  case izx b => exact ⟨_, congrArg Prod.snd (readPointer_eq _ _)⟩
  case izy b => exact ⟨_, congrArg Prod.snd (readPointer_eq _ _)⟩
  all_goals exact ⟨[], rfl⟩

theorem resolve_keeps (m : MemMode) (s : State) : s.Keeps (resolve m s).2 := by
  obtain ⟨as, h⟩ := resolve_frame m s
  rw [h]
  exact looks_keeps as s

/-- Fetching an operand makes its reads and nothing else (R145). -/
theorem fetch_frame (src : Source) (s : State) : ∃ as, (src.fetch s).state = s.looks as := by
  cases src with
  | imm v => exact ⟨[], rfl⟩
  | mem m =>
    obtain ⟨as, h⟩ := resolve_frame m s
    exact ⟨as ++ [(resolve m s).1.ea], by simp only [Source.fetch, memRead_eq, h, State.looks_append]; rfl⟩

theorem fetch_keeps (src : Source) (s : State) : s.Keeps (src.fetch s).state := by
  obtain ⟨as, h⟩ := fetch_frame src s
  rw [h]
  exact looks_keeps as s

/-- A read-class instruction keeps what its rule keeps. -/
theorem readInstr_keeps (op : Byte) (src : Source) {f : Byte → State → State} (hf : ∀ v (s : State), s.Keeps (f v s)) (s : State) :
    s.Keeps (readInstr op src f s) :=
  (advance_keeps _ _).trans ((fetch_keeps _ _).trans ((hf _ _).trans (charge_keeps _ _ _)))

theorem storeInstr_keeps (op : Byte) (m : MemMode) (v : State → Byte) (s : State) : s.Keeps (storeInstr op m v s) :=
  (advance_keeps _ _).trans ((resolve_keeps _ _).trans ((memWrite_keeps _ _ _).trans (charge_keeps _ _ _)))

/-- A read-modify-write instruction on memory (R146): one read and one write of the same `ea`, the flags between them. -/
theorem modifyInstr_mem (op : Byte) (m : MemMode) (f : Byte → Flags → Modified) (s : State) :
    modifyInstr op (.mem m) f s =
      let e := resolve m (s.advance (1 + (Operand.mem m).width))
      let u := (memRead e.1.ea e.2).2
      let r := f (e.2.bus.read e.1.ea) u.flags
      (memWrite e.1.ea r.1 { u with flags := r.2 }).charge op e.1.crossed := rfl

theorem modifyInstr_keeps (op : Byte) (tgt : Target) (f : Byte → Flags → Modified) (s : State) :
    s.Keeps (modifyInstr op tgt f s) := by
  cases tgt with
  | acc => exact .of_same rfl rfl rfl rfl rfl rfl rfl
  | mem m =>
    rw [modifyInstr_mem]
    dsimp only
    generalize hu : s.advance (1 + (Operand.mem m).width) = u
    have h1 : s.Keeps u := hu ▸ advance_keeps _ _
    generalize hw : (memRead (resolve m u).1.ea (resolve m u).2).2 = w
    have h2 : u.Keeps w := hw ▸ (resolve_keeps m u).trans (memRead_keeps _ _)
    have h3 : ∀ fl, w.Keeps { w with flags := fl } := fun fl => .of_same rfl rfl rfl rfl rfl rfl rfl
    exact h1.trans (h2.trans ((h3 _).trans ((memWrite_keeps _ _ _).trans (charge_keeps _ _ _))))

theorem impliedInstr_keeps (op : Byte) {f : State → State} (hf : ∀ s : State, s.Keeps (f s)) (s : State) :
    s.Keeps (impliedInstr op f s) :=
  (advance_keeps _ _).trans ((hf _).trans (charge_keeps _ _ _))

end Sys2Proof.Machine
end

