-- ==== Sys2Proof/Laws/Exec.lean ====
section
/-! SUPPORT. What any instruction can do, said once: which instructions answer a next state, and what every one of them keeps. -/

namespace Sys2Proof.Machine

/-- Every instruction but `unsupported` answers a next state, in every state. -/
theorem exec_next (i : Instr) (s : State) : (∃ t, exec i s = .next t) ∨ ∃ op, i = .unsupported op := by
  cases i
  case unsupported op => exact .inr ⟨op, rfl⟩
  all_goals exact .inl ⟨_, rfl⟩

theorem branch_keeps (op : Byte) (cond : Bool) (rel : Byte) (s : State) : s.Keeps (branch op cond rel s) := by
  dsimp only [branch]
  split <;> exact .of_same rfl rfl rfl rfl rfl rfl rfl

theorem jumpAbs_keeps (op : Byte) (w : Word) (s : State) : s.Keeps (jumpAbs op w s) := .of_same rfl rfl rfl rfl rfl rfl rfl

theorem jumpInd_keeps (op : Byte) (w : Word) (s : State) : s.Keeps (jumpInd op w s) := by
  have h := (advance_keeps 3 s).trans (looks_keeps [w, indHighAddr s.cfg.jmpIndPageWrap w] _)
  unfold jumpInd
  simp only [resolveInd_eq, State.advance_cfg]
  generalize (s.advance 3).looks _ = u at h ⊢
  exact h.trans (.of_same rfl rfl rfl rfl rfl rfl rfl)

theorem jumpSubroutine_keeps (op : Byte) (w : Word) (s : State) : s.Keeps (jumpSubroutine op w s) := by
  unfold jumpSubroutine
  dsimp only
  generalize hu : s.advance 3 = u
  have h1 : s.Keeps u := hu ▸ advance_keeps 3 s
  have h2 := push16_keeps (u.pc - 1) u
  generalize push16 (u.pc - 1) u = v at h2 ⊢
  have h3 : v.Keeps { v with pc := w } := .of_same rfl rfl rfl rfl rfl rfl rfl
  exact h1.trans (h2.trans (h3.trans (charge_keeps _ _ _)))

theorem returnFromSubroutine_keeps (s : State) : s.Keeps (returnFromSubroutine s) :=
  (pop16_keeps s).trans (.of_same rfl rfl rfl rfl rfl rfl rfl)

theorem pullA_keeps (s : State) : s.Keeps (pullA s) := (pop_keeps s).trans (.of_same rfl rfl rfl rfl rfl rfl rfl)

theorem pullStatus_keeps (s : State) : s.Keeps (pullStatus s) := (pop_keeps s).trans (.of_same rfl rfl rfl rfl rfl rfl rfl)

/-- No instruction changes the configuration, the cartridge, the map of `LowBus`, the fault record or a latch; each keeps a good bus
good, and the devices see the accesses it records. -/
theorem exec_keeps {i : Instr} {s t : State} (h : exec i s = .next t) : s.Keeps t := by
  cases i
  case unsupported => cases h
  all_goals simp only [exec,
    execLdaImm, execLdaZp, execLdaZpx, execLdaAbs, execLdaAbx, execLdaAby, execLdaIzx, execLdaIzy, execLdxImm,
    execLdxZp, execLdxZpy, execLdxAbs, execLdxAby, execLdyImm, execLdyZp, execLdyZpx, execLdyAbs, execLdyAbx,
    execStaZp, execStaZpx, execStaAbs, execStaAbx, execStaAby, execStaIzx, execStaIzy, execStxZp, execStxZpy,
    execStxAbs, execStyZp, execStyZpx, execStyAbs, execTax, execTay, execTxa, execTya, execTxs, execTsx,
    execAdcImm, execAdcZp, execAdcZpx, execAdcAbs, execAdcAbx, execAdcAby, execAdcIzx, execAdcIzy, execSbcImm,
    execSbcZp, execSbcZpx, execSbcAbs, execSbcAbx, execSbcAby, execSbcIzx, execSbcIzy, execCmpImm, execCmpZp,
    execCmpZpx, execCmpAbs, execCmpAbx, execCmpAby, execCmpIzx, execCmpIzy, execCpxImm, execCpxZp, execCpxAbs,
    execCpyImm, execCpyZp, execCpyAbs, execIncZp, execIncZpx, execIncAbs, execIncAbx, execInx, execIny,
    execDecZp, execDecZpx, execDecAbs, execDecAbx, execDex, execDey, execAndImm, execAndZp, execAndZpx,
    execAndAbs, execAndAbx, execAndAby, execAndIzx, execAndIzy, execOraImm, execOraZp, execOraZpx, execOraAbs,
    execOraAbx, execOraAby, execOraIzx, execOraIzy, execEorImm, execEorZp, execEorZpx, execEorAbs, execEorAbx,
    execEorAby, execEorIzx, execEorIzy, execBitZp, execBitAbs, execAslAcc, execAslZp, execAslZpx, execAslAbs,
    execAslAbx, execLsrAcc, execLsrZp, execLsrZpx, execLsrAbs, execLsrAbx, execRolAcc, execRolZp, execRolZpx,
    execRolAbs, execRolAbx, execRorAcc, execRorZp, execRorZpx, execRorAbs, execRorAbx, execClc, execSec,
    execCli, execSei, execCld, execSed, execClv, execNop, execPha, execPla, execPhp, execPlp, execBcc,
    execBcs, execBeq, execBne, execBmi, execBpl, execBvc, execBvs, execJmpAbs, execJmpInd, execJsr, execRts,
    execBrk, execRti,
    Host.Outcome.next.injEq] at h
  all_goals subst h
  all_goals first
    | with_reducible exact branch_keeps _ _ _ _
    | with_reducible exact jumpSubroutine_keeps _ _ _
    | with_reducible exact jumpAbs_keeps _ _ _
    | with_reducible exact jumpInd_keeps _ _ _
    | with_reducible exact storeInstr_keeps _ _ _ _
    | with_reducible exact modifyInstr_keeps _ _ _ _
    | (with_reducible refine readInstr_keeps _ _ (fun v s => ?_) _
       exact .of_same rfl rfl rfl rfl rfl rfl rfl)
    | (with_reducible refine impliedInstr_keeps _ (fun s => ?_) _
       first
         | with_reducible exact returnFromSubroutine_keeps _
         | with_reducible exact pullA_keeps _
         | with_reducible exact pullStatus_keeps _
         | with_reducible exact push_keeps _ _
         | with_reducible exact enterHandler_keeps _ _ _ _
         | with_reducible exact leaveHandler_keeps _
         | exact .of_same rfl rfl rfl rfl rfl rfl rfl)

end Sys2Proof.Machine
end

