-- ==== Sys2Proof/Laws/Flags.lean ====
section
/-! SUPPORT. The status byte and the flag derivations field by field. -/

namespace Sys2Proof.Machine

@[simp] theorem Flags.setZN_c (v : Byte) (f : Flags) : (f.setZN v).c = f.c := rfl
@[simp] theorem Flags.setZN_z (v : Byte) (f : Flags) : (f.setZN v).z = (v == 0) := rfl
@[simp] theorem Flags.setZN_i (v : Byte) (f : Flags) : (f.setZN v).i = f.i := rfl
@[simp] theorem Flags.setZN_d (v : Byte) (f : Flags) : (f.setZN v).d = f.d := rfl
@[simp] theorem Flags.setZN_b (v : Byte) (f : Flags) : (f.setZN v).b = f.b := rfl
@[simp] theorem Flags.setZN_v (v : Byte) (f : Flags) : (f.setZN v).v = f.v := rfl
@[simp] theorem Flags.setZN_n (v : Byte) (f : Flags) : (f.setZN v).n = v.msb := rfl

/-- A pulled status byte gives back the flags that were pushed, and the pusher's bit 4 as B (R27, R28). -/
theorem Flags.unpack_pack (f : Flags) (b4 : Bool) : Flags.unpack (f.pack b4) = { f with b := b4 } := by
  obtain ⟨c, z, i, d, b, v, n⟩ := f
  revert c z i d b v n b4
  decide

/-- Bit 4 of a pushed status byte is the pusher's choice, whatever B holds (R27). -/
theorem Flags.pack_bit4 (f : Flags) (b4 : Bool) : (f.pack b4).getLsbD 4 = b4 :=
  congrArg Flags.b (Flags.unpack_pack f b4)

theorem adc_binary (k : Choice) (a v : Byte) {f : Flags} (h : f.d = false) : adc k a v f = adcBinary a v f.c := by
  simp [adc, h]

theorem sbc_binary (k : Choice) (a v : Byte) {f : Flags} (h : f.d = false) : sbc k a v f = sbcBinary a v f.c := by
  simp [sbc, h]

/-- Where R182 fixes every result of a decimal addition: at the reference numerics, and on valid BCD operands at any. -/
theorem adc_decimal (k : Choice) (a v : Byte) {f : Flags} (h : f.d = true)
    (hk : k = .reference ∨ validBcd a = true ∧ validBcd v = true) : adc k a v f = adcCorrected a v f.c := by
  rcases hk with rfl | ⟨ha, hv⟩
  · simp [adc, adcDecimal, h]
  · cases k <;> simp [adc, adcDecimal, h, ha, hv]

/-- Where R184 fixes A after a decimal subtraction: at the reference numerics, and on valid BCD operands at any. -/
theorem sbc_decimal (k : Choice) (a v : Byte) {f : Flags} (h : f.d = true)
    (hk : k = .reference ∨ validBcd a = true ∧ validBcd v = true) :
    sbc k a v f = { sbcBinary a v f.c with value := sbcCorrected a v f.c } := by
  rcases hk with rfl | ⟨ha, hv⟩
  · simp [sbc, sbcDecimal, h]
  · cases k <;> simp [sbc, sbcDecimal, h, ha, hv]

/-- Z after a decimal addition is the binary sum's on every operand and under every numerics (R182). -/
theorem adc_decimal_z (k : Choice) (a v : Byte) {f : Flags} (h : f.d = true) :
    (adc k a v f).z = (adcBinary a v f.c).z := by
  cases k with
  | reference => simp [adc, adcDecimal, h, adcCorrected, adcBinary]
  | other k =>
    simp only [adc, adcDecimal, h, if_true]
    split <;> simp [adcCorrected, adcBinary]

/-- The flags after a decimal subtraction are the binary difference's, always (R183). -/
theorem sbc_decimal_flags (k : Choice) (a v : Byte) {f : Flags} (h : f.d = true) (g : Flags) :
    g.ofAlu (sbc k a v f) = g.ofAlu (sbcBinary a v f.c) := by
  cases k with
  | reference => simp [sbc, sbcDecimal, h, Flags.ofAlu]
  | other k =>
    simp only [sbc, sbcDecimal, h, if_true]
    split <;> simp [Flags.ofAlu]

end Sys2Proof.Machine
end

