-- ==== Sys2Proof/Laws/PerInstr.lean ====
section
/-! SUPPORT. Statements about every instruction as syntax, one lemma per constructor. -/

namespace Sys2Proof.Laws.EncodingLength

/-- The decoder reads as many operand bytes after the opcode byte as the encoder writes, and the encoding is one byte longer
than the operand (R100, R102). -/
def Statement (i : Instr) : Prop :=
  i.wf = true → operandWidth i.opcode = i.operand.width ∧ (encode i).length = 1 + i.operand.width

theorem ldaImm (v : Byte) : Statement (.ldaImm v) := fun _ => ⟨(by decide : operandWidth 0xA9 = 1), rfl⟩
theorem ldaZp (zp : Byte) : Statement (.ldaZp zp) := fun _ => ⟨(by decide : operandWidth 0xA5 = 1), rfl⟩
theorem ldaZpx (zp : Byte) : Statement (.ldaZpx zp) := fun _ => ⟨(by decide : operandWidth 0xB5 = 1), rfl⟩
theorem ldaAbs (addr : Word) : Statement (.ldaAbs addr) := fun _ => ⟨(by decide : operandWidth 0xAD = 2), rfl⟩
theorem ldaAbx (addr : Word) : Statement (.ldaAbx addr) := fun _ => ⟨(by decide : operandWidth 0xBD = 2), rfl⟩
theorem ldaAby (addr : Word) : Statement (.ldaAby addr) := fun _ => ⟨(by decide : operandWidth 0xB9 = 2), rfl⟩
theorem ldaIzx (zp : Byte) : Statement (.ldaIzx zp) := fun _ => ⟨(by decide : operandWidth 0xA1 = 1), rfl⟩
theorem ldaIzy (zp : Byte) : Statement (.ldaIzy zp) := fun _ => ⟨(by decide : operandWidth 0xB1 = 1), rfl⟩
theorem ldxImm (v : Byte) : Statement (.ldxImm v) := fun _ => ⟨(by decide : operandWidth 0xA2 = 1), rfl⟩
theorem ldxZp (zp : Byte) : Statement (.ldxZp zp) := fun _ => ⟨(by decide : operandWidth 0xA6 = 1), rfl⟩
theorem ldxZpy (zp : Byte) : Statement (.ldxZpy zp) := fun _ => ⟨(by decide : operandWidth 0xB6 = 1), rfl⟩
theorem ldxAbs (addr : Word) : Statement (.ldxAbs addr) := fun _ => ⟨(by decide : operandWidth 0xAE = 2), rfl⟩
theorem ldxAby (addr : Word) : Statement (.ldxAby addr) := fun _ => ⟨(by decide : operandWidth 0xBE = 2), rfl⟩
theorem ldyImm (v : Byte) : Statement (.ldyImm v) := fun _ => ⟨(by decide : operandWidth 0xA0 = 1), rfl⟩
theorem ldyZp (zp : Byte) : Statement (.ldyZp zp) := fun _ => ⟨(by decide : operandWidth 0xA4 = 1), rfl⟩
theorem ldyZpx (zp : Byte) : Statement (.ldyZpx zp) := fun _ => ⟨(by decide : operandWidth 0xB4 = 1), rfl⟩
theorem ldyAbs (addr : Word) : Statement (.ldyAbs addr) := fun _ => ⟨(by decide : operandWidth 0xAC = 2), rfl⟩
theorem ldyAbx (addr : Word) : Statement (.ldyAbx addr) := fun _ => ⟨(by decide : operandWidth 0xBC = 2), rfl⟩
theorem staZp (zp : Byte) : Statement (.staZp zp) := fun _ => ⟨(by decide : operandWidth 0x85 = 1), rfl⟩
theorem staZpx (zp : Byte) : Statement (.staZpx zp) := fun _ => ⟨(by decide : operandWidth 0x95 = 1), rfl⟩
theorem staAbs (addr : Word) : Statement (.staAbs addr) := fun _ => ⟨(by decide : operandWidth 0x8D = 2), rfl⟩
theorem staAbx (addr : Word) : Statement (.staAbx addr) := fun _ => ⟨(by decide : operandWidth 0x9D = 2), rfl⟩
theorem staAby (addr : Word) : Statement (.staAby addr) := fun _ => ⟨(by decide : operandWidth 0x99 = 2), rfl⟩
theorem staIzx (zp : Byte) : Statement (.staIzx zp) := fun _ => ⟨(by decide : operandWidth 0x81 = 1), rfl⟩
theorem staIzy (zp : Byte) : Statement (.staIzy zp) := fun _ => ⟨(by decide : operandWidth 0x91 = 1), rfl⟩
theorem stxZp (zp : Byte) : Statement (.stxZp zp) := fun _ => ⟨(by decide : operandWidth 0x86 = 1), rfl⟩
theorem stxZpy (zp : Byte) : Statement (.stxZpy zp) := fun _ => ⟨(by decide : operandWidth 0x96 = 1), rfl⟩
theorem stxAbs (addr : Word) : Statement (.stxAbs addr) := fun _ => ⟨(by decide : operandWidth 0x8E = 2), rfl⟩
theorem styZp (zp : Byte) : Statement (.styZp zp) := fun _ => ⟨(by decide : operandWidth 0x84 = 1), rfl⟩
theorem styZpx (zp : Byte) : Statement (.styZpx zp) := fun _ => ⟨(by decide : operandWidth 0x94 = 1), rfl⟩
theorem styAbs (addr : Word) : Statement (.styAbs addr) := fun _ => ⟨(by decide : operandWidth 0x8C = 2), rfl⟩
theorem tax : Statement .tax := fun _ => ⟨(by decide : operandWidth 0xAA = 0), rfl⟩
theorem tay : Statement .tay := fun _ => ⟨(by decide : operandWidth 0xA8 = 0), rfl⟩
theorem txa : Statement .txa := fun _ => ⟨(by decide : operandWidth 0x8A = 0), rfl⟩
theorem tya : Statement .tya := fun _ => ⟨(by decide : operandWidth 0x98 = 0), rfl⟩
theorem txs : Statement .txs := fun _ => ⟨(by decide : operandWidth 0x9A = 0), rfl⟩
theorem tsx : Statement .tsx := fun _ => ⟨(by decide : operandWidth 0xBA = 0), rfl⟩
theorem adcImm (v : Byte) : Statement (.adcImm v) := fun _ => ⟨(by decide : operandWidth 0x69 = 1), rfl⟩
theorem adcZp (zp : Byte) : Statement (.adcZp zp) := fun _ => ⟨(by decide : operandWidth 0x65 = 1), rfl⟩
theorem adcZpx (zp : Byte) : Statement (.adcZpx zp) := fun _ => ⟨(by decide : operandWidth 0x75 = 1), rfl⟩
theorem adcAbs (addr : Word) : Statement (.adcAbs addr) := fun _ => ⟨(by decide : operandWidth 0x6D = 2), rfl⟩
theorem adcAbx (addr : Word) : Statement (.adcAbx addr) := fun _ => ⟨(by decide : operandWidth 0x7D = 2), rfl⟩
theorem adcAby (addr : Word) : Statement (.adcAby addr) := fun _ => ⟨(by decide : operandWidth 0x79 = 2), rfl⟩
theorem adcIzx (zp : Byte) : Statement (.adcIzx zp) := fun _ => ⟨(by decide : operandWidth 0x61 = 1), rfl⟩
theorem adcIzy (zp : Byte) : Statement (.adcIzy zp) := fun _ => ⟨(by decide : operandWidth 0x71 = 1), rfl⟩
theorem sbcImm (v : Byte) : Statement (.sbcImm v) := fun _ => ⟨(by decide : operandWidth 0xE9 = 1), rfl⟩
theorem sbcZp (zp : Byte) : Statement (.sbcZp zp) := fun _ => ⟨(by decide : operandWidth 0xE5 = 1), rfl⟩
theorem sbcZpx (zp : Byte) : Statement (.sbcZpx zp) := fun _ => ⟨(by decide : operandWidth 0xF5 = 1), rfl⟩
theorem sbcAbs (addr : Word) : Statement (.sbcAbs addr) := fun _ => ⟨(by decide : operandWidth 0xED = 2), rfl⟩
theorem sbcAbx (addr : Word) : Statement (.sbcAbx addr) := fun _ => ⟨(by decide : operandWidth 0xFD = 2), rfl⟩
theorem sbcAby (addr : Word) : Statement (.sbcAby addr) := fun _ => ⟨(by decide : operandWidth 0xF9 = 2), rfl⟩
theorem sbcIzx (zp : Byte) : Statement (.sbcIzx zp) := fun _ => ⟨(by decide : operandWidth 0xE1 = 1), rfl⟩
theorem sbcIzy (zp : Byte) : Statement (.sbcIzy zp) := fun _ => ⟨(by decide : operandWidth 0xF1 = 1), rfl⟩
theorem cmpImm (v : Byte) : Statement (.cmpImm v) := fun _ => ⟨(by decide : operandWidth 0xC9 = 1), rfl⟩
theorem cmpZp (zp : Byte) : Statement (.cmpZp zp) := fun _ => ⟨(by decide : operandWidth 0xC5 = 1), rfl⟩
theorem cmpZpx (zp : Byte) : Statement (.cmpZpx zp) := fun _ => ⟨(by decide : operandWidth 0xD5 = 1), rfl⟩
theorem cmpAbs (addr : Word) : Statement (.cmpAbs addr) := fun _ => ⟨(by decide : operandWidth 0xCD = 2), rfl⟩
theorem cmpAbx (addr : Word) : Statement (.cmpAbx addr) := fun _ => ⟨(by decide : operandWidth 0xDD = 2), rfl⟩
theorem cmpAby (addr : Word) : Statement (.cmpAby addr) := fun _ => ⟨(by decide : operandWidth 0xD9 = 2), rfl⟩
theorem cmpIzx (zp : Byte) : Statement (.cmpIzx zp) := fun _ => ⟨(by decide : operandWidth 0xC1 = 1), rfl⟩
theorem cmpIzy (zp : Byte) : Statement (.cmpIzy zp) := fun _ => ⟨(by decide : operandWidth 0xD1 = 1), rfl⟩
theorem cpxImm (v : Byte) : Statement (.cpxImm v) := fun _ => ⟨(by decide : operandWidth 0xE0 = 1), rfl⟩
theorem cpxZp (zp : Byte) : Statement (.cpxZp zp) := fun _ => ⟨(by decide : operandWidth 0xE4 = 1), rfl⟩
theorem cpxAbs (addr : Word) : Statement (.cpxAbs addr) := fun _ => ⟨(by decide : operandWidth 0xEC = 2), rfl⟩
theorem cpyImm (v : Byte) : Statement (.cpyImm v) := fun _ => ⟨(by decide : operandWidth 0xC0 = 1), rfl⟩
theorem cpyZp (zp : Byte) : Statement (.cpyZp zp) := fun _ => ⟨(by decide : operandWidth 0xC4 = 1), rfl⟩
theorem cpyAbs (addr : Word) : Statement (.cpyAbs addr) := fun _ => ⟨(by decide : operandWidth 0xCC = 2), rfl⟩
theorem incZp (zp : Byte) : Statement (.incZp zp) := fun _ => ⟨(by decide : operandWidth 0xE6 = 1), rfl⟩
theorem incZpx (zp : Byte) : Statement (.incZpx zp) := fun _ => ⟨(by decide : operandWidth 0xF6 = 1), rfl⟩
theorem incAbs (addr : Word) : Statement (.incAbs addr) := fun _ => ⟨(by decide : operandWidth 0xEE = 2), rfl⟩
theorem incAbx (addr : Word) : Statement (.incAbx addr) := fun _ => ⟨(by decide : operandWidth 0xFE = 2), rfl⟩
theorem inx : Statement .inx := fun _ => ⟨(by decide : operandWidth 0xE8 = 0), rfl⟩
theorem iny : Statement .iny := fun _ => ⟨(by decide : operandWidth 0xC8 = 0), rfl⟩
theorem decZp (zp : Byte) : Statement (.decZp zp) := fun _ => ⟨(by decide : operandWidth 0xC6 = 1), rfl⟩
theorem decZpx (zp : Byte) : Statement (.decZpx zp) := fun _ => ⟨(by decide : operandWidth 0xD6 = 1), rfl⟩
theorem decAbs (addr : Word) : Statement (.decAbs addr) := fun _ => ⟨(by decide : operandWidth 0xCE = 2), rfl⟩
theorem decAbx (addr : Word) : Statement (.decAbx addr) := fun _ => ⟨(by decide : operandWidth 0xDE = 2), rfl⟩
theorem dex : Statement .dex := fun _ => ⟨(by decide : operandWidth 0xCA = 0), rfl⟩
theorem dey : Statement .dey := fun _ => ⟨(by decide : operandWidth 0x88 = 0), rfl⟩
theorem andImm (v : Byte) : Statement (.andImm v) := fun _ => ⟨(by decide : operandWidth 0x29 = 1), rfl⟩
theorem andZp (zp : Byte) : Statement (.andZp zp) := fun _ => ⟨(by decide : operandWidth 0x25 = 1), rfl⟩
theorem andZpx (zp : Byte) : Statement (.andZpx zp) := fun _ => ⟨(by decide : operandWidth 0x35 = 1), rfl⟩
theorem andAbs (addr : Word) : Statement (.andAbs addr) := fun _ => ⟨(by decide : operandWidth 0x2D = 2), rfl⟩
theorem andAbx (addr : Word) : Statement (.andAbx addr) := fun _ => ⟨(by decide : operandWidth 0x3D = 2), rfl⟩
theorem andAby (addr : Word) : Statement (.andAby addr) := fun _ => ⟨(by decide : operandWidth 0x39 = 2), rfl⟩
theorem andIzx (zp : Byte) : Statement (.andIzx zp) := fun _ => ⟨(by decide : operandWidth 0x21 = 1), rfl⟩
theorem andIzy (zp : Byte) : Statement (.andIzy zp) := fun _ => ⟨(by decide : operandWidth 0x31 = 1), rfl⟩
theorem oraImm (v : Byte) : Statement (.oraImm v) := fun _ => ⟨(by decide : operandWidth 0x09 = 1), rfl⟩
theorem oraZp (zp : Byte) : Statement (.oraZp zp) := fun _ => ⟨(by decide : operandWidth 0x05 = 1), rfl⟩
theorem oraZpx (zp : Byte) : Statement (.oraZpx zp) := fun _ => ⟨(by decide : operandWidth 0x15 = 1), rfl⟩
theorem oraAbs (addr : Word) : Statement (.oraAbs addr) := fun _ => ⟨(by decide : operandWidth 0x0D = 2), rfl⟩
theorem oraAbx (addr : Word) : Statement (.oraAbx addr) := fun _ => ⟨(by decide : operandWidth 0x1D = 2), rfl⟩
theorem oraAby (addr : Word) : Statement (.oraAby addr) := fun _ => ⟨(by decide : operandWidth 0x19 = 2), rfl⟩
theorem oraIzx (zp : Byte) : Statement (.oraIzx zp) := fun _ => ⟨(by decide : operandWidth 0x01 = 1), rfl⟩
theorem oraIzy (zp : Byte) : Statement (.oraIzy zp) := fun _ => ⟨(by decide : operandWidth 0x11 = 1), rfl⟩
theorem eorImm (v : Byte) : Statement (.eorImm v) := fun _ => ⟨(by decide : operandWidth 0x49 = 1), rfl⟩
theorem eorZp (zp : Byte) : Statement (.eorZp zp) := fun _ => ⟨(by decide : operandWidth 0x45 = 1), rfl⟩
theorem eorZpx (zp : Byte) : Statement (.eorZpx zp) := fun _ => ⟨(by decide : operandWidth 0x55 = 1), rfl⟩
theorem eorAbs (addr : Word) : Statement (.eorAbs addr) := fun _ => ⟨(by decide : operandWidth 0x4D = 2), rfl⟩
theorem eorAbx (addr : Word) : Statement (.eorAbx addr) := fun _ => ⟨(by decide : operandWidth 0x5D = 2), rfl⟩
theorem eorAby (addr : Word) : Statement (.eorAby addr) := fun _ => ⟨(by decide : operandWidth 0x59 = 2), rfl⟩
theorem eorIzx (zp : Byte) : Statement (.eorIzx zp) := fun _ => ⟨(by decide : operandWidth 0x41 = 1), rfl⟩
theorem eorIzy (zp : Byte) : Statement (.eorIzy zp) := fun _ => ⟨(by decide : operandWidth 0x51 = 1), rfl⟩
theorem bitZp (zp : Byte) : Statement (.bitZp zp) := fun _ => ⟨(by decide : operandWidth 0x24 = 1), rfl⟩
theorem bitAbs (addr : Word) : Statement (.bitAbs addr) := fun _ => ⟨(by decide : operandWidth 0x2C = 2), rfl⟩
theorem aslAcc : Statement .aslAcc := fun _ => ⟨(by decide : operandWidth 0x0A = 0), rfl⟩
theorem aslZp (zp : Byte) : Statement (.aslZp zp) := fun _ => ⟨(by decide : operandWidth 0x06 = 1), rfl⟩
theorem aslZpx (zp : Byte) : Statement (.aslZpx zp) := fun _ => ⟨(by decide : operandWidth 0x16 = 1), rfl⟩
theorem aslAbs (addr : Word) : Statement (.aslAbs addr) := fun _ => ⟨(by decide : operandWidth 0x0E = 2), rfl⟩
theorem aslAbx (addr : Word) : Statement (.aslAbx addr) := fun _ => ⟨(by decide : operandWidth 0x1E = 2), rfl⟩
theorem lsrAcc : Statement .lsrAcc := fun _ => ⟨(by decide : operandWidth 0x4A = 0), rfl⟩
theorem lsrZp (zp : Byte) : Statement (.lsrZp zp) := fun _ => ⟨(by decide : operandWidth 0x46 = 1), rfl⟩
theorem lsrZpx (zp : Byte) : Statement (.lsrZpx zp) := fun _ => ⟨(by decide : operandWidth 0x56 = 1), rfl⟩
theorem lsrAbs (addr : Word) : Statement (.lsrAbs addr) := fun _ => ⟨(by decide : operandWidth 0x4E = 2), rfl⟩
theorem lsrAbx (addr : Word) : Statement (.lsrAbx addr) := fun _ => ⟨(by decide : operandWidth 0x5E = 2), rfl⟩
theorem rolAcc : Statement .rolAcc := fun _ => ⟨(by decide : operandWidth 0x2A = 0), rfl⟩
theorem rolZp (zp : Byte) : Statement (.rolZp zp) := fun _ => ⟨(by decide : operandWidth 0x26 = 1), rfl⟩
theorem rolZpx (zp : Byte) : Statement (.rolZpx zp) := fun _ => ⟨(by decide : operandWidth 0x36 = 1), rfl⟩
theorem rolAbs (addr : Word) : Statement (.rolAbs addr) := fun _ => ⟨(by decide : operandWidth 0x2E = 2), rfl⟩
theorem rolAbx (addr : Word) : Statement (.rolAbx addr) := fun _ => ⟨(by decide : operandWidth 0x3E = 2), rfl⟩
theorem rorAcc : Statement .rorAcc := fun _ => ⟨(by decide : operandWidth 0x6A = 0), rfl⟩
theorem rorZp (zp : Byte) : Statement (.rorZp zp) := fun _ => ⟨(by decide : operandWidth 0x66 = 1), rfl⟩
theorem rorZpx (zp : Byte) : Statement (.rorZpx zp) := fun _ => ⟨(by decide : operandWidth 0x76 = 1), rfl⟩
theorem rorAbs (addr : Word) : Statement (.rorAbs addr) := fun _ => ⟨(by decide : operandWidth 0x6E = 2), rfl⟩
theorem rorAbx (addr : Word) : Statement (.rorAbx addr) := fun _ => ⟨(by decide : operandWidth 0x7E = 2), rfl⟩
theorem clc : Statement .clc := fun _ => ⟨(by decide : operandWidth 0x18 = 0), rfl⟩
theorem sec : Statement .sec := fun _ => ⟨(by decide : operandWidth 0x38 = 0), rfl⟩
theorem cli : Statement .cli := fun _ => ⟨(by decide : operandWidth 0x58 = 0), rfl⟩
theorem sei : Statement .sei := fun _ => ⟨(by decide : operandWidth 0x78 = 0), rfl⟩
theorem cld : Statement .cld := fun _ => ⟨(by decide : operandWidth 0xD8 = 0), rfl⟩
theorem sed : Statement .sed := fun _ => ⟨(by decide : operandWidth 0xF8 = 0), rfl⟩
theorem clv : Statement .clv := fun _ => ⟨(by decide : operandWidth 0xB8 = 0), rfl⟩
theorem nop : Statement .nop := fun _ => ⟨(by decide : operandWidth 0xEA = 0), rfl⟩
theorem pha : Statement .pha := fun _ => ⟨(by decide : operandWidth 0x48 = 0), rfl⟩
theorem pla : Statement .pla := fun _ => ⟨(by decide : operandWidth 0x68 = 0), rfl⟩
theorem php : Statement .php := fun _ => ⟨(by decide : operandWidth 0x08 = 0), rfl⟩
theorem plp : Statement .plp := fun _ => ⟨(by decide : operandWidth 0x28 = 0), rfl⟩
theorem bcc (rel : Byte) : Statement (.bcc rel) := fun _ => ⟨(by decide : operandWidth 0x90 = 1), rfl⟩
theorem bcs (rel : Byte) : Statement (.bcs rel) := fun _ => ⟨(by decide : operandWidth 0xB0 = 1), rfl⟩
theorem beq (rel : Byte) : Statement (.beq rel) := fun _ => ⟨(by decide : operandWidth 0xF0 = 1), rfl⟩
theorem bne (rel : Byte) : Statement (.bne rel) := fun _ => ⟨(by decide : operandWidth 0xD0 = 1), rfl⟩
theorem bmi (rel : Byte) : Statement (.bmi rel) := fun _ => ⟨(by decide : operandWidth 0x30 = 1), rfl⟩
theorem bpl (rel : Byte) : Statement (.bpl rel) := fun _ => ⟨(by decide : operandWidth 0x10 = 1), rfl⟩
theorem bvc (rel : Byte) : Statement (.bvc rel) := fun _ => ⟨(by decide : operandWidth 0x50 = 1), rfl⟩
theorem bvs (rel : Byte) : Statement (.bvs rel) := fun _ => ⟨(by decide : operandWidth 0x70 = 1), rfl⟩
theorem jmpAbs (addr : Word) : Statement (.jmpAbs addr) := fun _ => ⟨(by decide : operandWidth 0x4C = 2), rfl⟩
theorem jmpInd (ptr : Word) : Statement (.jmpInd ptr) := fun _ => ⟨(by decide : operandWidth 0x6C = 2), rfl⟩
theorem jsr (addr : Word) : Statement (.jsr addr) := fun _ => ⟨(by decide : operandWidth 0x20 = 2), rfl⟩
theorem rts : Statement .rts := fun _ => ⟨(by decide : operandWidth 0x60 = 0), rfl⟩
theorem brk : Statement .brk := fun _ => ⟨(by decide : operandWidth 0x00 = 0), rfl⟩
theorem rti : Statement .rti := fun _ => ⟨(by decide : operandWidth 0x40 = 0), rfl⟩

/-- No operand byte follows an unsupported opcode byte (R103). -/
theorem width_unsupported : ∀ op ∈ unsupportedOpcodes, operandWidth op = 0 := by decide

theorem unsupported (op : Byte) : Statement (.unsupported op) := fun h =>
  ⟨width_unsupported op (List.contains_iff_mem.1 h), rfl⟩

end Sys2Proof.Laws.EncodingLength
end

