-- ==== Sys2Proof/Laws/Step.lean ====
section
/-! SUPPORT. What one step can do, said once. -/

namespace Sys2Proof.Machine

/-- Fetching reads bytes and does nothing else (R103). -/
theorem fetch_state (s : State) : ∃ as, (fetch s).2 = s.looks as := by
  unfold fetch
  simp only [memRead_eq]
  split
  · exact ⟨[_], rfl⟩
  · exact ⟨[_, _], rfl⟩
  · exact ⟨[_, _, _], rfl⟩

/-- What a step that answers a next state did: the RESET sequence, an NMI, an unmasked IRQ, or the instruction fetched; and the
guards under which it did so (R280, R307). -/
theorem step_cases {s t : State} (h : step s = .next t) :
    s.fault = none ∧
    ((s.resetPending = true ∧ t = resetSequence { s with busTrace := [] }) ∨
     (s.resetPending = false ∧ s.nmiPending = true ∧
        t = interruptEntry s.cfg.vecNmi { s with busTrace := [], nmiPending := false }) ∨
     (s.resetPending = false ∧ s.nmiPending = false ∧ s.irqPending = true ∧ s.flags.i = false ∧
        t = interruptEntry s.cfg.vecIrq { s with busTrace := [], irqPending := false }) ∨
     (s.resetPending = false ∧ s.nmiPending = false ∧ (s.irqPending && !s.flags.i) = false ∧
        exec (fetch { s with busTrace := [] }).1 (fetch { s with busTrace := [] }).2 = .next t)) := by
  unfold step at h
  split at h
  · cases h
  · rename_i hf
    refine ⟨hf, ?_⟩
    unfold nextEvent at h
    cases hr : s.resetPending
    · cases hn : s.nmiPending
      · cases hi : (s.irqPending && !s.flags.i)
        · simp only [hr, hn, hi, Bool.false_eq_true, if_false] at h
          exact .inr (.inr (.inr ⟨rfl, rfl, rfl, h⟩))
        · simp only [hr, hn, hi, Bool.false_eq_true, if_false, if_true] at h
          simp only [Bool.and_eq_true, Bool.not_eq_true'] at hi
          cases h
          exact .inr (.inr (.inl ⟨rfl, rfl, hi.1, hi.2, rfl⟩))
      · simp only [hr, hn, Bool.false_eq_true, if_false, if_true] at h
        cases h
        exact .inr (.inl ⟨rfl, rfl, rfl⟩)
    · simp only [hr, if_true] at h
      cases h
      exact .inl ⟨rfl, rfl⟩

/-- A faulted machine has no step (R273). -/
theorem step_faulted {s : State} {r : FaultRecord} (h : s.fault = some r) :
    step s = .fault (.unsupportedOpcode r.op r.pc s) := by
  simp [step, h]

end Sys2Proof.Machine
end

