-- ==== Sys2Proof/Tests/Slice0.lean ====
section
/-! SUPPORT. The model's own tests, one decode or one step each, and for every statement with hypotheses a named witness that
meets them. Expected results come from the spec: the encodings of 30_encoding.md, the vectors `V-…` of 95_test_vectors.md (each
test carries its vector's id), and the rule cited beside a test that has no vector. -/

namespace Sys2Proof.Tests

open Sys2Proof Sys2Proof.Machine Sys2Proof.Claims
open Sys2Proof.Machine.Memory (ofBytes)

/-- Every flag 0. -/
def clear : Flags := { c := false, z := false, i := false, d := false, b := false, v := false, n := false }

/-- The default start state of the vectors: PC 0x0600, every flag 0, the rest as after power-on with two pages of zero bytes. -/
def base : State := { State.reset with pc := 0x0600, flags := clear }

/-- `[aaaa]=vv` of a start state, a RAM cell or a byte of the cartridge image. -/
def pokes (cells : List (Word × Byte)) (s : State) : State :=
  { s with bus := cells.foldl (fun b c => b.place c.1 c.2) s.bus }

/-- The instruction bytes at PC. -/
def code (bytes : List Byte) (s : State) : State := { s with bus := s.bus.placeBytes s.pc bytes }

/-- The result is a next state with `p`. -/
def nextWith (r : Result) (p : State → Bool) : Bool :=
  match r with
  | .next t => p t
  | .fault _ => false
  | .refused _ => false

theorem exists_of_nextWith {r : Result} {p : State → Bool} (h : nextWith r p = true) : ∃ t, r = .next t ∧ p t = true := by
  cases r with
  | next t => exact ⟨t, rfl, h⟩
  | fault _ => cases h
  | refused _ => cases h

/-- The result is the fault, with its opcode, its address and the state it leaves in `p`. -/
def faultsWith (r : Result) (p : Byte → Word → State → Bool) : Bool :=
  match r with
  | .next _ => false
  | .fault (.unsupportedOpcode op pc t) => p op pc t
  | .refused _ => false

/-- One step leads to a next state with `p`. -/
def after (s : State) (p : State → Bool) : Bool := nextWith (step s) p

/-! ## Well-formed instructions -/

/-- 0xA9 is LDA's opcode (R106), so no unsupported instruction has it; 0x02 is in the list of R108. -/
theorem test_wf_refuses_an_implemented_byte : (Instr.unsupported 0xA9).wf = false := by decide
theorem test_wf_accepts_a_listed_byte : (Instr.unsupported 0x02).wf = true := by decide
theorem test_wf_accepts_every_operand_byte : (Instr.ldaImm 0xFF).wf = true ∧ (Instr.jmpInd 0xFFFF).wf = true := by decide

/-! ## Decoding: every opcode of R106, its byte written out -/

/-- Each row decodes, with the bytes 0x34 and 0x12 after its opcode,
      to its instruction; the bytes it has no operand for are left. -/
def DecodesTo (rows : List (Byte × Instr)) : Prop :=
  ∀ r ∈ rows, decode [r.1, 0x34, 0x12] = .ok (r.2, [0x34, 0x12].drop r.2.operand.width)

theorem test_decode_loads : DecodesTo (
    [(0b10101001, .ldaImm 0x34), (0b10100101, .ldaZp 0x34), (0b10110101, .ldaZpx 0x34),
      (0b10101101, .ldaAbs 0x1234), (0b10111101, .ldaAbx 0x1234), (0b10111001, .ldaAby 0x1234),
      (0b10100001, .ldaIzx 0x34), (0b10110001, .ldaIzy 0x34), (0b10100010, .ldxImm 0x34), (0b10100110, .ldxZp 0x34),
      (0b10110110, .ldxZpy 0x34), (0b10101110, .ldxAbs 0x1234), (0b10111110, .ldxAby 0x1234),
      (0b10100000, .ldyImm 0x34), (0b10100100, .ldyZp 0x34), (0b10110100, .ldyZpx 0x34),
      (0b10101100, .ldyAbs 0x1234), (0b10111100, .ldyAbx 0x1234)]) := by
  unfold DecodesTo; decide

theorem test_decode_stores_and_transfers : DecodesTo (
    [(0b10000101, .staZp 0x34), (0b10010101, .staZpx 0x34), (0b10001101, .staAbs 0x1234),
      (0b10011101, .staAbx 0x1234), (0b10011001, .staAby 0x1234), (0b10000001, .staIzx 0x34),
      (0b10010001, .staIzy 0x34), (0b10000110, .stxZp 0x34), (0b10010110, .stxZpy 0x34),
      (0b10001110, .stxAbs 0x1234), (0b10000100, .styZp 0x34), (0b10010100, .styZpx 0x34),
      (0b10001100, .styAbs 0x1234), (0b10101010, .tax), (0b10101000, .tay), (0b10001010, .txa), (0b10011000, .tya),
      (0b10011010, .txs), (0b10111010, .tsx)]) := by
  unfold DecodesTo; decide

theorem test_decode_add_and_subtract : DecodesTo (
    [(0b01101001, .adcImm 0x34), (0b01100101, .adcZp 0x34), (0b01110101, .adcZpx 0x34),
      (0b01101101, .adcAbs 0x1234), (0b01111101, .adcAbx 0x1234), (0b01111001, .adcAby 0x1234),
      (0b01100001, .adcIzx 0x34), (0b01110001, .adcIzy 0x34), (0b11101001, .sbcImm 0x34), (0b11100101, .sbcZp 0x34),
      (0b11110101, .sbcZpx 0x34), (0b11101101, .sbcAbs 0x1234), (0b11111101, .sbcAbx 0x1234),
      (0b11111001, .sbcAby 0x1234), (0b11100001, .sbcIzx 0x34), (0b11110001, .sbcIzy 0x34)]) := by
  unfold DecodesTo; decide

theorem test_decode_compare_and_count : DecodesTo (
    [(0b11001001, .cmpImm 0x34), (0b11000101, .cmpZp 0x34), (0b11010101, .cmpZpx 0x34),
      (0b11001101, .cmpAbs 0x1234), (0b11011101, .cmpAbx 0x1234), (0b11011001, .cmpAby 0x1234),
      (0b11000001, .cmpIzx 0x34), (0b11010001, .cmpIzy 0x34), (0b11100000, .cpxImm 0x34), (0b11100100, .cpxZp 0x34),
      (0b11101100, .cpxAbs 0x1234), (0b11000000, .cpyImm 0x34), (0b11000100, .cpyZp 0x34),
      (0b11001100, .cpyAbs 0x1234), (0b11100110, .incZp 0x34), (0b11110110, .incZpx 0x34),
      (0b11101110, .incAbs 0x1234), (0b11111110, .incAbx 0x1234), (0b11101000, .inx), (0b11001000, .iny)] ++
    [(0b11000110, .decZp 0x34), (0b11010110, .decZpx 0x34), (0b11001110, .decAbs 0x1234),
      (0b11011110, .decAbx 0x1234), (0b11001010, .dex), (0b10001000, .dey)]) := by
  unfold DecodesTo; decide

theorem test_decode_logic : DecodesTo (
    [(0b00101001, .andImm 0x34), (0b00100101, .andZp 0x34), (0b00110101, .andZpx 0x34),
      (0b00101101, .andAbs 0x1234), (0b00111101, .andAbx 0x1234), (0b00111001, .andAby 0x1234),
      (0b00100001, .andIzx 0x34), (0b00110001, .andIzy 0x34), (0b00001001, .oraImm 0x34), (0b00000101, .oraZp 0x34),
      (0b00010101, .oraZpx 0x34), (0b00001101, .oraAbs 0x1234), (0b00011101, .oraAbx 0x1234),
      (0b00011001, .oraAby 0x1234), (0b00000001, .oraIzx 0x34), (0b00010001, .oraIzy 0x34),
      (0b01001001, .eorImm 0x34), (0b01000101, .eorZp 0x34), (0b01010101, .eorZpx 0x34),
      (0b01001101, .eorAbs 0x1234)] ++
    [(0b01011101, .eorAbx 0x1234), (0b01011001, .eorAby 0x1234), (0b01000001, .eorIzx 0x34),
      (0b01010001, .eorIzy 0x34), (0b00100100, .bitZp 0x34), (0b00101100, .bitAbs 0x1234)]) := by
  unfold DecodesTo; decide

theorem test_decode_shifts : DecodesTo (
    [(0b00001010, .aslAcc), (0b00000110, .aslZp 0x34), (0b00010110, .aslZpx 0x34), (0b00001110, .aslAbs 0x1234),
      (0b00011110, .aslAbx 0x1234), (0b01001010, .lsrAcc), (0b01000110, .lsrZp 0x34), (0b01010110, .lsrZpx 0x34),
      (0b01001110, .lsrAbs 0x1234), (0b01011110, .lsrAbx 0x1234), (0b00101010, .rolAcc), (0b00100110, .rolZp 0x34),
      (0b00110110, .rolZpx 0x34), (0b00101110, .rolAbs 0x1234), (0b00111110, .rolAbx 0x1234), (0b01101010, .rorAcc),
      (0b01100110, .rorZp 0x34), (0b01110110, .rorZpx 0x34), (0b01101110, .rorAbs 0x1234),
      (0b01111110, .rorAbx 0x1234)]) := by
  unfold DecodesTo; decide

theorem test_decode_flags_and_stack : DecodesTo (
    [(0b00011000, .clc), (0b00111000, .sec), (0b01011000, .cli), (0b01111000, .sei), (0b11011000, .cld),
      (0b11111000, .sed), (0b10111000, .clv), (0b11101010, .nop), (0b01001000, .pha), (0b01101000, .pla),
      (0b00001000, .php), (0b00101000, .plp)]) := by
  unfold DecodesTo; decide

theorem test_decode_control_flow : DecodesTo (
    [(0b10010000, .bcc 0x34), (0b10110000, .bcs 0x34), (0b11110000, .beq 0x34), (0b11010000, .bne 0x34),
      (0b00110000, .bmi 0x34), (0b00010000, .bpl 0x34), (0b01010000, .bvc 0x34), (0b01110000, .bvs 0x34),
      (0b01001100, .jmpAbs 0x1234), (0b01101100, .jmpInd 0x1234), (0b00100000, .jsr 0x1234), (0b01100000, .rts),
      (0b00000000, .brk), (0b01000000, .rti)]) := by
  unfold DecodesTo; decide
theorem test_decode_unsupported :
    [0b00000010, 0b11111111, 0b10001001].map (fun op : Byte => decodeOp op 0x34 0x12)
      = [.unsupported 0x02, .unsupported 0xFF, .unsupported 0x89] := by decide

theorem test_decode_truncated :
    decode [] = .error (.truncated 1) ∧ decode [0xA9] = .error (.truncated 1) ∧ decode [0x4C, 0x00] = .error (.truncated 1) := by
  decide

/-- The table numbers a later byte's bits upwards; the operand bytes above `nbits` are 0. -/
theorem test_decodeTableWord :
    decodeTableWord 24 0x1234AD = some (.ldaAbs 0x1234) ∧ decodeTableWord 8 0xAD = some (.ldaAbs 0) ∧
    decodeTableWord 8 0xEA = some .nop := by decide

/-- After reset the word placed at the fetch address is the instruction that runs (R307). -/
theorem test_withFetchWord :
    after (State.reset.withFetchWord 16 0x80A9) (fun t => t.a = 0x80 && t.pc = 0x0002 && t.cycles = 2) = true := by decide

/-! ## One step: the vectors of 95_test_vectors.md -/

/-! ### Addressing modes -/

theorem test_ldx_V_AM4 : after (code [0xB6, 0xFF] (pokes [(0x0001, 0x55), (0x0101, 0x66)] { base with y := 0x02 }))
    (fun t => t.x = 0x55 && t.pc = 0x0602 && t.flags = clear && t.cycles = 4) = true := by decide

theorem test_lda_V_AM8 : after (code [0xB9, 0xFF, 0x7F] (pokes [(0x8000, 0x77)] { base with y := 0x01 }))
    (fun t => t.a = 0x77 && t.pc = 0x0603 && t.flags = clear && t.cycles = 5) = true := by decide

theorem test_lda_V_AM10 : after (code [0xA1, 0xFE]
      (pokes [(0x00FF, 0x34), (0x0000, 0x12), (0x1234, 0xAB), (0x0100, 0x99)] { base with x := 0x01 }))
    (fun t => t.a = 0xAB && t.pc = 0x0602 && t.flags = { clear with n := true } && t.cycles = 6) = true := by decide

theorem test_lda_V_AM12 : after (code [0xB1, 0xFF]
      (pokes [(0x00FF, 0x00), (0x0000, 0x04), (0x0100, 0x05), (0x0400, 0xEE)] { base with y := 0x00 }))
    (fun t => t.a = 0xEE && t.pc = 0x0602 && t.flags = { clear with n := true } && t.cycles = 5) = true := by decide

/-! ### Loads, stores, transfers -/

theorem test_lda_V_AM7 : after (code [0xBD, 0xF0, 0x12] (pokes [(0x1300, 0x22)] { base with x := 0x10 }))
    (fun t => t.a = 0x22 && t.pc = 0x0603 && t.flags = clear && t.cycles = 5) = true := by decide

theorem test_lda_V_AM5 : after (code [0xAD, 0x34, 0x12] (pokes [(0x1234, 0x9A)] base))
    (fun t => t.a = 0x9A && t.pc = 0x0603 && t.flags = { clear with n := true } && t.cycles = 4) = true := by decide

theorem test_ldx_V_LS4 : after (code [0xBE, 0x00, 0x02] (pokes [(0x0205, 0x00)] { base with y := 0x05 }))
    (fun t => t.pc = 0x0603 && t.flags = { clear with z := true } && t.cycles = 4) = true := by decide

theorem test_ldy_V_LS5 : after (code [0xB4, 0x80] (pokes [(0x0010, 0xF0)] { base with x := 0x90 }))
    (fun t => t.y = 0xF0 && t.pc = 0x0602 && t.flags = { clear with n := true } && t.cycles = 4) = true := by decide

theorem test_sta_V_AM14 : after (code [0x91, 0x10] (pokes [(0x0010, 0x01), (0x0011, 0x03)] { base with y := 0xFF, a := 0x42 }))
    (fun t => t.bus.read 0x0400 = 0x42 && t.pc = 0x0602 && t.flags = clear && t.cycles = 6) = true := by decide

theorem test_sta_V_LS10 : after (code [0x8D, 0x00, 0x80] { base with a := 0x01 })
    (fun t => t.bus.pages = ⟨1, 1⟩ && t.pc = 0x0603 && t.flags = clear && t.cycles = 4) = true := by decide

theorem test_stx_V_LS7 : after (code [0x96, 0xFF] { base with x := 0xAB, y := 0x02 })
    (fun t => t.bus.read 0x0001 = 0xAB && t.pc = 0x0602 && t.flags = clear && t.cycles = 4) = true := by decide

theorem test_sty_V_LS8 : after (code [0x8C, 0x34, 0x12] { base with y := 0xFF })
    (fun t => t.bus.read 0x1234 = 0xFF && t.pc = 0x0603 && t.flags = clear && t.cycles = 4) = true := by decide

theorem test_tax_V_LS11 : after (code [0xAA] { base with a := 0x00, x := 0x55 })
    (fun t => t.x = 0x00 && t.pc = 0x0601 && t.flags = { clear with z := true } && t.cycles = 2) = true := by decide

theorem test_tay_V_LS12 : after (code [0xA8] { base with a := 0x90 })
    (fun t => t.y = 0x90 && t.pc = 0x0601 && t.flags = { clear with n := true } && t.cycles = 2) = true := by decide

theorem test_txa_V_LS13 : after (code [0x8A] { base with x := 0x01, a := 0xFF, flags := { clear with n := true } })
    (fun t => t.a = 0x01 && t.pc = 0x0601 && t.flags = clear && t.cycles = 2) = true := by decide

theorem test_tya_V_LS14 : after (code [0x98] { base with y := 0xFF })
    (fun t => t.a = 0xFF && t.pc = 0x0601 && t.flags = { clear with n := true } && t.cycles = 2) = true := by decide

theorem test_txs_V_LS15 : after (code [0x9A] { base with x := 0x00, flags := { clear with n := true } })
    (fun t => t.sp = 0x00 && t.pc = 0x0601 && t.flags = { clear with n := true } && t.cycles = 2) = true := by decide

theorem test_tsx_V_LS16 : after (code [0xBA] { base with sp := 0x00, x := 0x11 })
    (fun t => t.x = 0x00 && t.pc = 0x0601 && t.flags = { clear with z := true } && t.cycles = 2) = true := by decide

/-! ### Arithmetic -/

theorem test_adc_V_AR4 : after (code [0x69, 0x80] { base with a := 0x80 })
    (fun t => t.a = 0x00 && t.pc = 0x0602 && t.flags = { clear with c := true, z := true, v := true } &&
      t.cycles = 2) = true := by decide

theorem test_adc_V_AR10 : after (code [0x69, 0x46] { base with a := 0x58, flags := { clear with d := true, c := true } })
    (fun t => t.a = 0x05 && t.pc = 0x0602 && t.flags = { clear with c := true, d := true, v := true, n := true } &&
      t.cycles = 2) = true := by decide

theorem test_sbc_V_AR16 : after (code [0xE9, 0x01] { base with a := 0x80, flags := { clear with c := true } })
    (fun t => t.a = 0x7F && t.pc = 0x0602 && t.flags = { clear with c := true, v := true } && t.cycles = 2) = true := by decide

theorem test_sbc_V_AR23 : after (code [0xE9, 0x21] { base with a := 0x12, flags := { clear with d := true, c := true } })
    (fun t => t.a = 0x91 && t.pc = 0x0602 && t.flags = { clear with d := true, n := true } && t.cycles = 2) = true := by decide

theorem test_cmp_V_AR27 : after (code [0xC9, 0x00] { base with a := 0x80 })
    (fun t => t.pc = 0x0602 && t.flags = { clear with c := true, n := true } && t.cycles = 2) = true := by decide

theorem test_cmp_V_AR28 : after (code [0xC9, 0xFF] { base with a := 0x00, flags := { clear with v := true } })
    (fun t => t.pc = 0x0602 && t.flags = { clear with v := true } && t.cycles = 2) = true := by decide

theorem test_cpx_V_AR31 : after (code [0xE4, 0x10] (pokes [(0x0010, 0x01)] { base with x := 0x00 }))
    (fun t => t.pc = 0x0602 && t.flags = { clear with n := true } && t.cycles = 3) = true := by decide

theorem test_cpy_V_AR33 : after (code [0xCC, 0x00, 0x02] (pokes [(0x0200, 0x7F)] { base with y := 0xFF }))
    (fun t => t.pc = 0x0603 && t.flags = { clear with c := true, n := true } && t.cycles = 4) = true := by decide

theorem test_inc_V_AM17 : after (code [0xFE, 0xFF, 0x02] (pokes [(0x0300, 0xFF)] { base with x := 0x01 }))
    (fun t => t.bus.read 0x0300 = 0x00 && t.pc = 0x0603 && t.flags = { clear with z := true } && t.cycles = 7) = true := by decide

theorem test_inc_V_AR35 : after (code [0xEE, 0x00, 0x02] (pokes [(0x0200, 0x7F)] { base with flags := { clear with c := true } }))
    (fun t => t.bus.read 0x0200 = 0x80 && t.pc = 0x0603 && t.flags = { clear with c := true, n := true } &&
      t.cycles = 6) = true := by decide

theorem test_dec_V_AR36 : after (code [0xC6, 0x10] (pokes [(0x0010, 0x00)] base))
    (fun t => t.bus.read 0x0010 = 0xFF && t.pc = 0x0602 && t.flags = { clear with n := true } && t.cycles = 5) = true := by decide

theorem test_dec_V_AR37 : after (code [0xD6, 0x0F] (pokes [(0x0010, 0x01)] { base with x := 0x01 }))
    (fun t => t.bus.read 0x0010 = 0x00 && t.pc = 0x0602 && t.flags = { clear with z := true } && t.cycles = 6) = true := by decide

theorem test_inx_V_AR38 : after (code [0xE8] { base with x := 0xFF })
    (fun t => t.x = 0x00 && t.pc = 0x0601 && t.flags = { clear with z := true } && t.cycles = 2) = true := by decide

theorem test_iny_V_AR39 : after (code [0xC8] { base with y := 0x7F })
    (fun t => t.y = 0x80 && t.pc = 0x0601 && t.flags = { clear with n := true } && t.cycles = 2) = true := by decide

theorem test_dex_V_AR40 : after (code [0xCA] { base with x := 0x00 })
    (fun t => t.x = 0xFF && t.pc = 0x0601 && t.flags = { clear with n := true } && t.cycles = 2) = true := by decide

theorem test_dey_V_AR42 : after (code [0x88] { base with y := 0x80 })
    (fun t => t.y = 0x7F && t.pc = 0x0601 && t.flags = clear && t.cycles = 2) = true := by decide

/-! ### Logic and shifts -/

theorem test_and_V_LG2 : after (code [0x29, 0x80] { base with a := 0xFF })
    (fun t => t.a = 0x80 && t.pc = 0x0602 && t.flags = { clear with n := true } && t.cycles = 2) = true := by decide

theorem test_ora_V_LG4 : after (code [0x09, 0x80] { base with a := 0x01 })
    (fun t => t.a = 0x81 && t.pc = 0x0602 && t.flags = { clear with n := true } && t.cycles = 2) = true := by decide

theorem test_eor_V_LG5 : after (code [0x49, 0xFF] { base with a := 0x0F })
    (fun t => t.a = 0xF0 && t.pc = 0x0602 && t.flags = { clear with n := true } && t.cycles = 2) = true := by decide

theorem test_bit_V_LG7 : after (code [0x24, 0x10] (pokes [(0x0010, 0xC0)] { base with a := 0x01 }))
    (fun t => t.pc = 0x0602 && t.flags = { clear with z := true, v := true, n := true } && t.cycles = 3) = true := by decide

theorem test_bit_V_LG8 : after (code [0x2C, 0x00, 0x02] (pokes [(0x0200, 0x3F)]
      { base with a := 0xFF, flags := { clear with v := true, n := true } }))
    (fun t => t.pc = 0x0603 && t.flags = clear && t.cycles = 4) = true := by decide

theorem test_asl_V_LG11 : after (code [0x0A] { base with a := 0x40, flags := { clear with c := true } })
    (fun t => t.a = 0x80 && t.pc = 0x0601 && t.flags = { clear with n := true } && t.cycles = 2) = true := by decide

theorem test_asl_V_LG12 : after (code [0x06, 0x10] (pokes [(0x0010, 0xFF)] base))
    (fun t => t.bus.read 0x0010 = 0xFE && t.pc = 0x0602 && t.flags = { clear with c := true, n := true } &&
      t.cycles = 5) = true := by decide

theorem test_lsr_V_LG14 : after (code [0x4A] { base with a := 0xFF, flags := { clear with n := true } })
    (fun t => t.a = 0x7F && t.pc = 0x0601 && t.flags = { clear with c := true } && t.cycles = 2) = true := by decide

theorem test_lsr_V_LG15 : after (code [0x46, 0x10] (pokes [(0x0010, 0x03)] base))
    (fun t => t.bus.read 0x0010 = 0x01 && t.pc = 0x0602 && t.flags = { clear with c := true } && t.cycles = 5) = true := by decide

theorem test_rol_V_LG17 : after (code [0x2A] { base with a := 0x80, flags := { clear with c := true } })
    (fun t => t.a = 0x01 && t.pc = 0x0601 && t.flags = { clear with c := true } && t.cycles = 2) = true := by decide

theorem test_rol_V_LG18 : after (code [0x2E, 0x00, 0x02] (pokes [(0x0200, 0x40)] { base with flags := { clear with c := true } }))
    (fun t => t.bus.read 0x0200 = 0x81 && t.pc = 0x0603 && t.flags = { clear with n := true } && t.cycles = 6) = true := by decide

theorem test_ror_V_LG20 : after (code [0x6A] { base with a := 0x01, flags := { clear with c := true } })
    (fun t => t.a = 0x80 && t.pc = 0x0601 && t.flags = { clear with c := true, n := true } && t.cycles = 2) = true := by decide

theorem test_ror_V_LG22 : after (code [0x7E, 0xFF, 0x02] (pokes [(0x0300, 0xFE)] { base with x := 0x01 }))
    (fun t => t.bus.read 0x0300 = 0x7F && t.pc = 0x0603 && t.flags = clear && t.cycles = 7) = true := by decide

/-! ### Flags, stack, NOP -/

theorem test_clc_V_FS1 : after (code [0x18] { base with flags := { clear with c := true } })
    (fun t => t.pc = 0x0601 && t.flags = clear && t.cycles = 2) = true := by decide

theorem test_sec_V_FS2 : after (code [0x38] base)
    (fun t => t.pc = 0x0601 && t.flags = { clear with c := true } && t.cycles = 2) = true := by decide

theorem test_cli_V_FS3 : after (code [0x58] { base with flags := { clear with i := true } })
    (fun t => t.pc = 0x0601 && t.flags = clear && t.cycles = 2) = true := by decide

theorem test_sei_V_FS4 : after (code [0x78] base)
    (fun t => t.pc = 0x0601 && t.flags = { clear with i := true } && t.cycles = 2) = true := by decide

theorem test_cld_V_FS5 : after (code [0xD8] { base with flags := { clear with d := true } })
    (fun t => t.pc = 0x0601 && t.flags = clear && t.cycles = 2) = true := by decide

theorem test_sed_V_FS6 : after (code [0xF8] base)
    (fun t => t.pc = 0x0601 && t.flags = { clear with d := true } && t.cycles = 2) = true := by decide

theorem test_clv_V_FS7 : after (code [0xB8] { base with flags := { clear with v := true } })
    (fun t => t.pc = 0x0601 && t.flags = clear && t.cycles = 2) = true := by decide

theorem test_nop_V_FS8 : after (code [0xEA] { base with flags := { clear with c := true, z := true, v := true, n := true } })
    (fun t => t.pc = 0x0601 && t.flags = { clear with c := true, z := true, v := true, n := true } &&
      t.cycles = 2) = true := by decide

theorem test_pha_V_FS10 : after (code [0x48] { base with a := 0x42, sp := 0x00 })
    (fun t => t.sp = 0xFF && t.bus.read 0x0100 = 0x42 && t.pc = 0x0601 && t.flags = clear && t.cycles = 3) = true := by decide

theorem test_pla_V_FS12 : after (code [0x68] (pokes [(0x0100, 0x80)] { base with sp := 0xFF }))
    (fun t => t.a = 0x80 && t.sp = 0x00 && t.pc = 0x0601 && t.flags = { clear with n := true } &&
      t.cycles = 4) = true := by decide

theorem test_php_V_FS13 : after (code [0x08] { base with flags := { clear with c := true, i := true, n := true } })
    (fun t => t.sp = 0xFC && t.bus.read 0x01FD = 0xB5 && t.pc = 0x0601 &&
      t.flags = { clear with c := true, i := true, n := true } && t.cycles = 3) = true := by decide

theorem test_plp_V_FS16 : after (code [0x28] (pokes [(0x01FD, 0xB5)] { base with sp := 0xFC }))
    (fun t => t.sp = 0xFD && t.pc = 0x0601 && t.flags = { clear with c := true, i := true, b := true, n := true } &&
      t.cycles = 4) = true := by decide

theorem test_plp_V_FS17 : after (code [0x28] (pokes [(0x01FD, 0x00)]
      { base with sp := 0xFC, flags := { clear with c := true, z := true, i := true, d := true, v := true, n := true } }))
    (fun t => t.sp = 0xFD && t.pc = 0x0601 && t.flags = clear && t.cycles = 4) = true := by decide

/-! ### Control flow -/

theorem test_jmp_V_AM15 : after (code [0x6C, 0xFF, 0x02] (pokes [(0x02FF, 0x34), (0x0200, 0x12), (0x0300, 0x56)] base))
    (fun t => t.pc = 0x1234 && t.flags = clear && t.cycles = 5) = true := by decide

theorem test_jmp_V_CF15 : after (code [0x4C, 0x00, 0x80] base)
    (fun t => t.pc = 0x8000 && t.flags = clear && t.cycles = 3) = true := by decide

theorem test_bcc_V_CF1 : after (code [0x90, 0x02] base)
    (fun t => t.pc = 0x0604 && t.flags = clear && t.cycles = 3) = true := by decide

theorem test_bcc_V_CF2 : after (code [0x90, 0x02] { base with flags := { clear with c := true } })
    (fun t => t.pc = 0x0602 && t.flags = { clear with c := true } && t.cycles = 2) = true := by decide

theorem test_bcs_V_CF3 : after (code [0xB0, 0x02] { base with flags := { clear with c := true } })
    (fun t => t.pc = 0x0604 && t.flags = { clear with c := true } && t.cycles = 3) = true := by decide

theorem test_beq_V_CF4 : after (code [0xF0, 0xFE] { base with flags := { clear with z := true } })
    (fun t => t.pc = 0x0600 && t.flags = { clear with z := true } && t.cycles = 3) = true := by decide

theorem test_bne_V_CF6 : after (code [0xD0, 0x04] { base with pc := 0x80FA })
    (fun t => t.pc = 0x8100 && t.flags = clear && t.cycles = 4) = true := by decide

theorem test_bne_V_CF13 : after (code [0xD0, 0x7F] { base with pc := 0xFFF0 })
    (fun t => t.pc = 0x0071 && t.flags = clear && t.cycles = 4) = true := by decide

theorem test_bmi_V_CF9 : after (code [0x30, 0x10] { base with flags := { clear with n := true } })
    (fun t => t.pc = 0x0612 && t.flags = { clear with n := true } && t.cycles = 3) = true := by decide

theorem test_bpl_V_CF14 : after (code [0x10, 0xFC] { base with pc := 0x0000 })
    (fun t => t.pc = 0xFFFE && t.flags = clear && t.cycles = 4) = true := by decide

theorem test_bvc_V_CF11 : after (code [0x50, 0x00] base)
    (fun t => t.pc = 0x0602 && t.flags = clear && t.cycles = 3) = true := by decide

theorem test_bvs_V_CF12 : after (code [0x70, 0x7F] { base with flags := { clear with v := true } })
    (fun t => t.pc = 0x0681 && t.flags = { clear with v := true } && t.cycles = 3) = true := by decide

theorem test_jsr_V_CF16 : after (code [0x20, 0x34, 0x12] { base with pc := 0x8000 })
    (fun t => t.sp = 0xFB && t.bus.read 0x01FD = 0x80 && t.bus.read 0x01FC = 0x02 && t.pc = 0x1234 && t.flags = clear &&
      t.cycles = 6) = true := by decide

theorem test_jsr_V_CF17 : after (code [0x20, 0x34, 0x12] { base with sp := 0x00 })
    (fun t => t.sp = 0xFE && t.bus.read 0x0100 = 0x06 && t.bus.read 0x01FF = 0x02 && t.pc = 0x1234 && t.flags = clear &&
      t.cycles = 6) = true := by decide

theorem test_rts_V_CF18 : after (code [0x60] (pokes [(0x01FC, 0x02), (0x01FD, 0x80)] { base with sp := 0xFB }))
    (fun t => t.sp = 0xFD && t.pc = 0x8003 && t.flags = clear && t.cycles = 6) = true := by decide

theorem test_rts_V_CF19 : after (code [0x60] (pokes [(0x01FC, 0xFF), (0x01FD, 0xFF)] { base with sp := 0xFB }))
    (fun t => t.sp = 0xFD && t.pc = 0x0000 && t.flags = clear && t.cycles = 6) = true := by decide

theorem test_brk_V_CF20 : after (code [0x00] (pokes [(0xFFFE, 0x00), (0xFFFF, 0x90)] base))
    (fun t => t.sp = 0xFA && t.bus.read 0x01FD = 0x06 && t.bus.read 0x01FC = 0x02 && t.bus.read 0x01FB = 0x30 &&
      t.pc = 0x9000 && t.flags = { clear with i := true, b := true } && t.cycles = 7) = true := by decide

theorem test_brk_V_CF21 : after (code [0x00] (pokes [(0xFFFE, 0x00), (0xFFFF, 0x90)]
      { base with sp := 0x01, flags := { clear with i := true, d := true, c := true } }))
    (fun t => t.sp = 0xFE && t.bus.read 0x0101 = 0x06 && t.bus.read 0x0100 = 0x02 && t.bus.read 0x01FF = 0x3D &&
      t.pc = 0x9000 && t.flags = { clear with c := true, i := true, d := true, b := true } && t.cycles = 7) = true := by decide

theorem test_rti_V_CF22 : after (code [0x40] (pokes [(0x01FB, 0x30), (0x01FC, 0x02), (0x01FD, 0x06)]
      { base with sp := 0xFA, flags := { clear with i := true } }))
    (fun t => t.sp = 0xFD && t.pc = 0x0602 && t.flags = { clear with b := true } && t.cycles = 6) = true := by decide

theorem test_rti_V_CF23 : after (code [0x40] (pokes [(0x01FB, 0xCF), (0x01FC, 0x34), (0x01FD, 0x12)] { base with sp := 0xFA }))
    (fun t => t.sp = 0xFD && t.pc = 0x1234 &&
      t.flags = { clear with c := true, z := true, i := true, d := true, v := true, n := true } &&
      t.cycles = 6) = true := by decide
/-! ### Interrupts, RESET, fault -/

/-- The common start state of the V-EV group. -/
def ev : State :=
  pokes [(0xFFFB, 0xA0), (0xFFFD, 0x80), (0xFFFF, 0x90), (0x8123, 0xEA), (0xA000, 0xEA)] { base with pc := 0x8123 }

theorem test_irq_V_EV1 : after { ev with irqPending := true, flags := { clear with c := true } }
    (fun t => t.pc = 0x9000 && t.flags = { clear with c := true, i := true } && !t.irqPending && t.cycles = 7 &&
      t.busTrace = [.write 0x01FD 0x81, .write 0x01FC 0x23, .write 0x01FB 0x21, .read 0xFFFE 0x00,
      .read 0xFFFF 0x90]) = true := by
  decide

theorem test_masked_irq_V_EV2 : after { ev with irqPending := true, flags := { clear with i := true } }
    (fun t => t.pc = 0x8124 && t.irqPending && t.cycles = 2 && t.busTrace = [.read 0x8123 0xEA]) = true := by decide

theorem test_nmi_V_EV3 : after { ev with nmiPending := true, flags := { clear with i := true, v := true, n := true } }
    (fun t => t.pc = 0xA000 && !t.nmiPending && t.bus.read 0x01FB = 0xE4) = true := by decide

theorem test_nmi_wins_over_irq_V_EV4 : after { ev with nmiPending := true, irqPending := true }
    (fun t => t.pc = 0xA000 && t.irqPending && t.flags = { clear with i := true }) = true := by decide

theorem test_reset_wins_V_EV5 :
    after { ev with a := 0x55, sp := 0x10, flags := { clear with c := true, b := true }, cycles := 6,
                    resetPending := true, nmiPending := true, irqPending := true }
      (fun t => t.pc = 0x8000 && t.a = 0 && t.sp = 0xFD && t.flags = { clear with i := true } && !t.nmiPending &&
        !t.irqPending && t.cycles = 13 && t.bus = ev.bus) = true := by decide

theorem test_irq_pushes_bit4_clear_V_EV6 :
    after { ev with irqPending := true, flags := { clear with d := true, b := true } }
      (fun t => t.bus.read 0x01FB = 0x28 && t.flags = { clear with i := true, d := true, b := true }) = true := by decide

/-- The start state of V-EV8. -/
def ev8 : State := pokes [(0x8123, 0x02)] { ev with a := 0x07 }

theorem test_fault_V_EV8 :
    faultsWith (step ev8) (fun op pc t => op = 0x02 && pc = 0x8123 && t.fault = some ⟨0x02, 0x8123⟩ && t.pc = 0x8123 &&
      t.a = 0x07 && t.cycles = 0 && t.busTrace = [.read 0x8123 0x02]) = true := by decide

theorem test_irq_before_fetch_V_EV9 : after (pokes [(0x8123, 0x02)] { ev with irqPending := true })
    (fun t => t.pc = 0x9000 && t.fault = none) = true := by decide

theorem test_nmi_V_EV11 : after { ev with pc := 0xFFFF, nmiPending := true }
    (fun t => t.bus.read 0x01FD = 0xFF && t.bus.read 0x01FC = 0xFF) = true := by decide

/-! ### Cartridge load -/

theorem test_load_V_LD1 : load 2 [0x58, 0x45, 0x53, 0x1A, 0] = .error .invalidHeader := by decide
theorem test_load_V_LD2 : load 2 [0x4E, 0x45, 0x53] = .error .invalidHeader := by decide
theorem test_load_V_LD3 : load 2 [0x4E, 0x45, 0x53, 0x1A, 2, 1] = .error .truncatedImage := by decide
theorem test_load_V_LD4 : load 2 [0x4E, 0x45, 0x53, 0x1A, 2, 1, 0x20, 4, 0, 0, 0, 0, 0, 0, 0, 0] = .error .unsupportedFormat := by
  decide
theorem test_load_V_LD5 : load 2 [0x4E, 0x45, 0x53, 0x1A, 2, 1, 0x20, 0, 0, 0, 0, 0, 0, 0, 0, 1] = .error .unsupportedFormat := by
  decide
theorem test_load_V_LD6 :
    mapperIdOf 0x10 0x40 = 0x41 ∧
    load 2 [0x4E, 0x45, 0x53, 0x1A, 2, 1, 0x10, 0x40, 0, 0, 0, 0, 0, 0, 0, 0] = .error .unsupportedMapper := by decide
/-- As V-LD8, with every byte after the header missing. -/
theorem test_load_V_LD8 :
    load 2 [0x4E, 0x45, 0x53, 0x1A, 2, 1, 0x20, 0, 0, 0, 0, 0, 0, 0, 0, 0] = .error .truncatedImage := by decide
theorem test_load_V_LD12 :
    load 2 [0x4E, 0x45, 0x53, 0x1A, 0, 1, 0x20, 0, 0, 0, 0, 0, 0, 0, 0, 0] = .error .noProgramRom := by decide

/-- The header of V-LD10: one program page, no character ROM, a trainer. -/
def trainerHeader : List Byte := [0x4E, 0x45, 0x53, 0x1A, 1, 0, 0x24, 0, 0, 0, 0, 0, 0, 0, 0, 0]

/-- The program ROM of V-LD10 comes from offset 528 and the trainer from the 512 bytes before it. -/
theorem test_load_V_LD10 (t p : List Byte) (ht : t.length = 512) (hp : p.length = 16384) :
    load 2 (trainerHeader ++ (t ++ p)) =
      .ok { header := trainerHeader, prgRom := ofBytes p, chrRom := [], trainer := some (ofBytes t) } := by
  have hh : headerByte trainerHeader 6 = 0x24 ∧ headerByte trainerHeader 4 = 1 ∧ headerByte trainerHeader 5 = 0 := by decide
  have hs : loadSections trainerHeader (t ++ p) =
      .ok { header := trainerHeader, prgRom := ofBytes p, chrRom := [], trainer := some (ofBytes t) } := by
    simp [loadSections, hh, trainerLength, prgPageSize, chrPageSize, ht, hp, List.take_of_length_le, List.drop_of_length_le,
      ofBytes, Memory.ofBytesFrom]
  have hl : ∀ body, load 2 (trainerHeader ++ body) = loadSections trainerHeader body := fun body => by
    simp [load, magic, headerByte, mapperIdOf, trainerHeader]
  rw [hl, hs]

/-! ### Address decoder and mapper -/

/-- The four-page cartridge of the V-MP group, at `loaded_pages = (0, 3)`. -/
def mp : Bus where
  cart := { Cartridge.blank with
    header := [0x4E, 0x45, 0x53, 0x1A, 4, 0, 0x20, 0, 0, 0, 0, 0, 0, 0, 0, 0]
    prgRom := [(0x0100, 0xA0), (0x3FFF, 0xB0), (0x4100, 0xA1), (0x7FFF, 0xB1), (0x8100, 0xA2), (0xBFFF, 0xB2), (0xC100, 0xA3),
      (0xFFFF, 0xB3)] }
  pages := ⟨0, 3⟩
  low := .flat []

theorem test_windows_V_MP1_V_MP2 :
    translate mp.pages 0x8100 = some 0x0100 ∧ mp.read 0x8100 = 0xA0 ∧ mp.read 0xFFFF = 0xB3 ∧ mp.read 0xC100 = 0xA3 ∧
    mp.read 0xBFFF = 0xB0 := by decide
theorem test_bank_switch_V_MP3 :
    (mp.write referenceParams 0x8000 0x02).read 0x8100 = 0xA2 ∧ (mp.write referenceParams 0x8000 0x02).read 0xC100 = 0xA3 := by
  decide
theorem test_bank_switch_V_MP4_V_MP5 :
    (mp.write referenceParams 0xFFFF 0x07).pages = ⟨3, 3⟩ ∧ mp.write referenceParams 0xC123 0x04 = mp := by decide
theorem test_ram_write_V_MP6 : mp.write referenceParams 0x7FFF 0x02 = { mp with low := .flat [(0x7FFF, 0x02)] } := by decide
theorem test_write_bus_V_MP7 :
    State.writeBus 0x8000 0x01 { base with bus := mp } = { base with bus := { mp with pages := ⟨1, 3⟩ } } := by decide
theorem test_read_prg_V_MP9 :
    State.readPrg 0x81FF 2 { base with bus := { mp with pages := ⟨0, 3⟩ } } = some [0x00, 0x00] ∧
    State.readPrg 0x8100 2 { base with bus := { mp with pages := ⟨2, 3⟩ } } = some [0xA2, 0x00] ∧
    State.readPrg 0xFFFF 2 { base with bus := mp } = some [0xB3] := by decide

/-- A `LowBus` that is not the reference: 2 KiB of RAM repeated over 0x0000 to 0x1FFF and a device at 0x2000 to 0x3FFF. -/
def mirrored : LowBus where
  map := [⟨0x0000, 0x1FFF, .ram 0 0x800⟩, ⟨0x2000, 0x3FFF, .device 0⟩]
  ram := []
  history := []

/-- The default start state of the vectors on that `LowBus`. -/
def onMirrored : State := { base with bus := { base.bus with low := mirrored } }

/-- A RAM write is seen at the cell's mirrors and nowhere else, and a read of RAM leaves no trace on the bus (R56). -/
theorem test_mirrored_ram :
    let b := onMirrored.bus.write referenceParams 0x0801 0x5A
    b.read 0x0001 = 0x5A ∧ b.read 0x1801 = 0x5A ∧ b.read 0x0002 = 0x00 ∧ b.afterRead 0x1801 = b := by decide

/-- INC of a device register: one read and one write reach the device, in that order, and no RAM cell changes (R60, R85, R86). -/
theorem test_device_sees_a_modify :
    let v := Config.deviceRead 0 [] 0x2002
    ∃ t, exec (.incAbs 0x2002) onMirrored = .next t ∧ t.busTrace = [.read 0x2002 v, .write 0x2002 (v + 1)] ∧
      t.bus.low.history = t.busTrace ∧ t.bus.low.ram = [] := ⟨_, rfl, rfl, rfl, rfl⟩

/-- PC comes through the RESET vector in the upper window. -/
theorem test_power_on_V_ST1 :
    nextWith (.next (State.powerOn referenceParams { Cartridge.blank with prgRom := [(0x7FFD, 0x80)] } (.flat [])))
      (fun s => s.pc = 0x8000 && s.sp = 0xFD && s.flags = { clear with i := true } && s.bus.pages = ⟨0, 1⟩) = true := by decide

/-! ## Witnesses: states and operands that meet the hypotheses of each statement that has some -/

theorem witness_DecodeOfEncodeIsTheInstruction :
    (Instr.jmpInd 0xFFFF).wf = true ∧ (Instr.ldaZp 0x00).wf = true ∧ (Instr.unsupported 0xFF).wf = true := by decide

theorem witness_EncodeOfDecodeIsTheBytes :
    decode [0xB1, 0x10, 0xEA] = .ok (.ldaIzy 0x10, [0xEA]) ∧ 3 ≤ [(0x02 : Byte), 0x00, 0x00].length := by decide

theorem witness_UnsupportedBytesAreTheListed105 :
    (0x02 : Byte) ∈ unsupportedOpcodes ∧ (0xFF : Byte) ∈ unsupportedOpcodes ∧ (0xEA : Byte) ∉ unsupportedOpcodes := by decide

theorem witness_StepRunsTheDecodedInstruction :
    let s := { code [0xAD, 0x34, 0x12] { base with pc := 0xFFFE } with busTrace := [] }
    s.fault = none ∧ s.quiet ∧
      decode [byteAt s 0xFFFE, byteAt (look 0xFFFE s) 0xFFFF, byteAt (looks [0xFFFE, 0xFFFF] s) 0x10000]
        = .ok (.ldaAbs 0x1234, []) :=
  ⟨by decide, ⟨by decide, by decide, by decide⟩, by decide⟩

/-- One instruction of each mnemonic that a statement about a group names, at an addressing mode of its own. -/
theorem witness_mnemonics :
    (Instr.ldaIzy 0xFF).mnemonic = .lda ∧ (Instr.ldxZpy 0).mnemonic = .ldx ∧ (Instr.ldyAbx 0xFFFF).mnemonic = .ldy ∧
    (Instr.staIzx 0).mnemonic = .sta ∧ (Instr.stxZpy 0).mnemonic = .stx ∧ (Instr.styZpx 0).mnemonic = .sty ∧
    (Instr.adcAby 0).mnemonic = .adc ∧ (Instr.sbcImm 0).mnemonic = .sbc ∧ (Instr.cmpAbx 0).mnemonic = .cmp ∧
    (Instr.cpxImm 0).mnemonic = .cpx ∧ (Instr.cpyAbs 0).mnemonic = .cpy ∧ (Instr.incAbx 0).mnemonic = .inc ∧
    (Instr.decZpx 0).mnemonic = .dec ∧ (Instr.andZp 0).mnemonic = .and ∧ (Instr.oraIzy 0).mnemonic = .ora ∧
    (Instr.eorIzx 0).mnemonic = .eor ∧ (Instr.bitAbs 0).mnemonic = .bit ∧ Instr.aslAcc.mnemonic = .asl ∧
    (Instr.lsrAbx 0).mnemonic = .lsr ∧ Instr.rolAcc.mnemonic = .rol ∧ (Instr.rorZp 0).mnemonic = .ror := by decide

theorem witness_StoreFrame :
    base.bus.low.ram.wf ∧ base.bus.low.map = [] ∧
    (∃ t, (Instr.staAbs 0x7FFF).operand = .mem (.abs 0x7FFF) ∧ ea (.abs 0x7FFF) base < 0x8000 ∧
      exec (.staAbs 0x7FFF) base = .next t) ∧
    (∃ t, (Instr.incAbs 0x8000).operand = .mem (.abs 0x8000) ∧ 0x8000 ≤ ea (.abs 0x8000) base ∧
      exec (.incAbs 0x8000) base = .next t) :=
  ⟨by decide, by decide, ⟨_, rfl, by decide, rfl⟩, ⟨_, rfl, by decide, rfl⟩⟩

/-- What no store at 0x0001 changes, and none at the device's first address: a window, and other RAM; but a mirror is no other
cell. -/
theorem witness_apart :
    apart onMirrored 0x8000 0x0001 ∧ apart onMirrored 0x0800 0x0001 ∧ apart onMirrored 0x0001 0x2000 ∧
    ¬ apart onMirrored 0x0801 0x0001 := by
  refine ⟨.inl (by decide), .inr ⟨0, by decide, by decide⟩, .inr ⟨1, by decide, by decide⟩, ?_⟩
  rintro (h | ⟨c, h, k⟩)
  · exact absurd h (by decide)
  · exact k ((by decide : onMirrored.bus.low.target 0x0001 = onMirrored.bus.low.target 0x0801).trans h)

/-- The zero page and the stack page are RAM on the reference `LowBus`, and on the one with mirrors. -/
theorem witness_ramPages : base.bus.low.ramPages ∧ mirrored.ramPages := by
  refine ⟨LowBus.ramPages_flat (by decide), fun a b ha hb => ⟨a.toNat, ?_⟩⟩
  have h : ∀ w : Word, w.toNat < 0x200 → mirrored.target w = .cell w.toNat := fun w hw => by
    have hlast : (0x1FFF : Word).toNat = 0x1FFF := by decide
    simp only [mirrored, LowBus.target, targetIn, rangeTarget]
    rw [if_pos ⟨Nat.zero_le _, by omega⟩]
    simp only [LowTarget.cell.injEq, BitVec.ofNat_eq_ofNat, BitVec.toNat_ofNat]
    omega
  rw [h a ha, h b hb]
  exact ⟨rfl, fun k => BitVec.toNat_inj.1 (LowTarget.cell.inj k)⟩

theorem witness_AdcBinaryAddsWithCarry : (Instr.adcImm 0xFF).mnemonic = .adc ∧ base.flags.d = false := by decide

theorem witness_SbcBinarySubtractsWithBorrow : (Instr.sbcIzy 0xFF).mnemonic = .sbc ∧ base.flags.d = false := by decide

/-- D = 1, A = 0x99. -/
def decimalState : State := { base with a := 0x99, flags := { clear with d := true } }

/-- The same under a DecimalNumerics that is not the reference. -/
def otherDecimalState : State := { decimalState with cfg := { referenceParams with decimal := .other 0 } }

theorem witness_AdcDecimalCorrectsTheDigits :
    (Instr.adcImm 0xFF).mnemonic = .adc ∧ decimalState.flags.d = true ∧ decimalState.cfg.decimal = .reference ∧
    otherDecimalState.flags.d = true ∧ isBcd otherDecimalState.a ∧ isBcd (value (Instr.adcImm 0x90).operand otherDecimalState) ∧
    ¬ isBcd (value (Instr.adcImm 0x9A).operand otherDecimalState) := by unfold isBcd; decide

theorem witness_SbcDecimalCorrectsTheDigits :
    (Instr.sbcImm 0xFF).mnemonic = .sbc ∧ decimalState.flags.d = true ∧ decimalState.cfg.decimal = .reference ∧
    otherDecimalState.flags.d = true ∧ isBcd otherDecimalState.a ∧ isBcd (value (Instr.sbcImm 0x09).operand otherDecimalState) ∧
    ¬ isBcd (value (Instr.sbcImm 0xA9).operand otherDecimalState) := by unfold isBcd; decide

theorem witness_DecimalModeIsDecimalArithmetic :
    decimalState.flags.d = true ∧ decimalState.a = bcd 99 ∧ value (Instr.adcImm 0x99).operand decimalState = bcd 99 ∧
    value (Instr.sbcImm 0x00).operand decimalState = bcd 0 := by decide

theorem witness_PullsReadTheStackCell : base.bus.low.ramPages := witness_ramPages.1

theorem witness_PushThenPopGivesTheByteBack :
    base.bus.low.ram.wf ∧ base.bus.low.ramPages ∧ base.bus.low.map = [] ∧ (0x0100 : Word).toNat ≠ 256 + base.sp.toNat ∧
    apart onMirrored 0x0100 (stackCell onMirrored.sp) :=
  ⟨by decide, witness_ramPages.1, by decide, by decide, .inr ⟨0x100, by decide, by decide⟩⟩

theorem witness_PushFrame :
    base.bus.low.ram.wf ∧ (∃ t, exec .pha base = .next t) ∧ (∃ t, exec .php base = .next t) ∧
    (∃ t, exec (.jsr 0xFFFF) base = .next t) ∧ (∃ t, exec .brk base = .next t) ∧ base.bus.low.map = [] ∧
    (∀ k < 3, (0x0000 : Word) ≠ stackCell (base.sp - BitVec.ofNat 8 k)) ∧
    ∀ k < 3, apart base 0x0000 (stackCell (base.sp - BitVec.ofNat 8 k)) :=
  ⟨by decide, ⟨_, rfl⟩, ⟨_, rfl⟩, ⟨_, rfl⟩, ⟨_, rfl⟩, by decide, by decide, fun k hk => .inr ⟨0, by decide, by revert k; decide⟩⟩

theorem witness_RtsUndoesJsr :
    base.bus.low.ram.wf ∧ base.bus.low.ramPages ∧
      ∃ t u, exec (.jsr 0x1234) base = .next t ∧ u = { t with pc := 0x4000, a := 0x55 } ∧ u.sp = t.sp ∧
        ∀ k < 2, popped u (k + 1) = popped t (k + 1) :=
  ⟨by decide, witness_ramPages.1, _, _, rfl, rfl, rfl, fun k hk => by
    have : k = 0 ∨ k = 1 := by omega
    rcases this with rfl | rfl <;> rfl⟩

theorem witness_IrqStepEntersTheHandler :
    let s := { ev with irqPending := true }
    s.fault = none ∧ s.resetPending = false ∧ s.nmiPending = false ∧ s.irqPending = true ∧ s.flags.i = false := by decide

theorem witness_NmiStepEntersTheHandler :
    let s := { ev with nmiPending := true, irqPending := true, flags := { clear with i := true } }
    s.fault = none ∧ s.resetPending = false ∧ s.nmiPending = true := by decide

theorem witness_ResetStepReinitialises :
    let s := { ev with resetPending := true, nmiPending := true, irqPending := true }
    s.fault = none ∧ s.resetPending = true := by decide

theorem witness_MaskedIrqStaysPending :
    let s := { ev with irqPending := true, flags := { clear with i := true } }
    s.resetPending = false ∧ s.nmiPending = false ∧ s.irqPending = true ∧ s.flags.i = true ∧ ∃ t, step s = .next t :=
  ⟨rfl, rfl, rfl, rfl, _, rfl⟩

theorem witness_RtiResumesTheInterruptedCode :
    ev.bus.low.ram.wf ∧ ev.bus.low.ramPages ∧ ∃ t u, t = interruptEntry 0xFFFE ev ∧ u = { t with pc := 0x9000, x := 0x01 } ∧ u.sp = t.sp ∧
      ∀ k < 3, popped u (k + 1) = popped t (k + 1) :=
  ⟨by decide, LowBus.ramPages_flat (by decide), _, _, rfl, rfl, rfl, fun k hk => by
    have : k = 0 ∨ k = 1 ∨ k = 2 := by omega
    rcases this with rfl | rfl | rfl <;> rfl⟩

theorem witness_StackedBit4TellsBrkFromIrq :
    ev.bus.low.ram.wf ∧ ev.bus.low.ramPages ∧ (∃ t, exec .brk ev = .next t) ∧ ∃ t, exec .php ev = .next t :=
  ⟨by decide, LowBus.ramPages_flat (by decide), ⟨_, rfl⟩, _, rfl⟩

theorem witness_UnsupportedOpcodeFaults :
    ev8.fault = none ∧ ev8.quiet ∧ byteAt ev8 ev8.pc.toNat ∈ unsupportedOpcodes :=
  ⟨by decide, ⟨by decide, by decide, by decide⟩, by decide⟩

theorem witness_FaultIsSticky :
    { ev8 with fault := some ⟨0x02, 0x8123⟩ }.fault = some ⟨0x02, 0x8123⟩ ∧ 0x8000 ≤ (0x8000 : Word).toNat := by decide

/-- All three: a faulted machine, an unsupported byte at PC, and a machine that runs on. -/
theorem witness_StepFaultsOnlyOnUnsupportedBytes :
    { ev with fault := some ⟨0x02, 0x8123⟩ }.fault ≠ none ∧ byteAt ev8 ev8.pc.toNat ∈ unsupportedOpcodes ∧
    after ev (fun _ => true) = true := by decide

/-- A good bus for each clause: RAM up to 0x7FFF, a mirror, both ends of a device, the reference map, a window. -/
theorem witness_RamReadsBackWhatIsWritten :
    base.bus.low.ram.wf ∧ (0x7FFF : Word).toNat < 0x8000 ∧ base.bus.low.target 0x7FFF = .cell 0x7FFF ∧
    onMirrored.bus.low.ram.wf ∧ onMirrored.bus.low.target 0x1FFF = .cell 0x7FF ∧
    onMirrored.bus.low.target 0x2000 = .device 0 ∧ onMirrored.bus.low.target 0x3FFF = .device 0 ∧
    base.bus.low.map = [] ∧ 0x8000 ≤ (0x8000 : Word).toNat := by decide

/-- The parameters with a control range of one address. -/
def oneControl : Params := { referenceParams with ctrlLo := 0x9000, ctrlHi := 0x9000 }

theorem witness_WindowWritesOnlySelectBanks :
    0x8000 ≤ (0x8000 : Word).toNat ∧
    (referenceParams.ctrlLo.toNat ≤ (0x8000 : Word).toNat ∧ (0xFFFF : Word).toNat ≤ referenceParams.ctrlHi.toNat) ∧
    (oneControl.ctrlLo.toNat ≤ (0x9000 : Word).toNat ∧ (0x9000 : Word).toNat ≤ oneControl.ctrlHi.toNat) ∧
    (0x8FFF : Word).toNat < oneControl.ctrlLo.toNat ∧ oneControl.ctrlHi.toNat < (0x9001 : Word).toNat := by decide

theorem witness_WindowWritesOnlySelectBanks_valid : Pages.valid mp.pages mp.cart.prgRomPages :=
  ⟨by decide, by decide⟩

theorem witness_good_bus : mp.wf :=
  ⟨⟨by decide, by decide, by decide, by decide, by decide, by decide, by decide, by decide, by decide, by decide,
      fun t h => by cases h⟩, ⟨by decide, by decide⟩, by decide, by decide⟩

/-- With the good bus above, the ends of both windows. -/
theorem witness_WindowsTranslateThroughTheBanks :
    0x8000 ≤ (0x8000 : Word).toNat ∧ (0xBFFF : Word).toNat ≤ 0xBFFF ∧ ¬ (0xC000 : Word).toNat ≤ 0xBFFF ∧
    0x8000 ≤ (0xFFFF : Word).toNat := by decide

theorem witness_BankSwitchShowsTheNewBank :
    referenceParams.bankSelect = .reference ∧ 0x8000 ≤ (0x8000 : Word).toNat ∧
    referenceParams.ctrlLo.toNat ≤ (0x8000 : Word).toNat ∧ (0xFFFF : Word).toNat ≤ referenceParams.ctrlHi.toNat ∧
    (0xBFFF : Word).toNat < 0xC000 ∧ 0xC000 ≤ (0xC000 : Word).toNat := by decide

theorem witness_VisibleRomIsWhatTheCpuReads :
    0 < 32768 ∧ 32767 < 32768 ∧ 0x8000 ≤ (0x8000 : Word).toNat ∧ (0x7FFF : Word).toNat < 0x8000 := by decide

/-- The clauses of LoadErrorsInOrder in their order, each at an image that its checks select; the last one's length is needed
exactly. -/
theorem witness_LoadErrorsInOrder :
    [(0x58 : Byte), 0x45, 0x53, 0x1A].take 4 ≠ [0x4E, 0x45, 0x53, 0x1A] ∧
    ([0x4E, 0x45, 0x53, 0x1A, 2, 1] : List Byte).length < 16 ∧
    (headerByte [0x4E, 0x45, 0x53, 0x1A, 2, 1, 0x20, 4, 0, 0, 0, 0, 0, 0, 0, 0] 7).getLsbD 2 = true ∧
    headerByte [0x4E, 0x45, 0x53, 0x1A, 2, 1, 0x20, 0, 0, 0, 0, 1, 0, 0, 0, 0] 11 ≠ 0 ∧
    headerByte [0x4E, 0x45, 0x53, 0x1A, 2, 1, 0x20, 0, 0, 0, 0, 0, 0, 0, 0, 1] 15 ≠ 0 ∧
    (0x10 : Byte).toNat / 16 + 16 * ((0x40 : Byte).toNat / 16) ≠ (2 : Byte).toNat ∧
    headerByte [0x4E, 0x45, 0x53, 0x1A, 0, 1, 0x20, 0, 0, 0, 0, 0, 0, 0, 0, 0] 4 = 0 ∧
    trainerHeader.length < 16 + trainerLength (headerByte trainerHeader 6) + (headerByte trainerHeader 4).toNat * 16384
      + (headerByte trainerHeader 5).toNat * 8192 ∧
    16 + trainerLength (headerByte trainerHeader 6) + (headerByte trainerHeader 4).toNat * 16384
      + (headerByte trainerHeader 5).toNat * 8192 = 16912 := by decide

/-- The hypotheses on the header that LoadErrorsInOrder's last clauses and LoadReadsTheSections share. -/
theorem witness_good_header :
    trainerHeader.length = 16 ∧ trainerHeader.take 4 = [0x4E, 0x45, 0x53, 0x1A] ∧
    (headerByte trainerHeader 7).getLsbD 2 = false ∧ (∀ k, 11 ≤ k → k ≤ 15 → headerByte trainerHeader k = 0) ∧
    mapperIdOf (headerByte trainerHeader 6) (headerByte trainerHeader 7) = 2 ∧ headerByte trainerHeader 4 ≠ 0 := by
  refine ⟨by decide, by decide, by decide, fun k h1 h2 => ?_, by decide, by decide⟩
  have : k = 11 ∨ k = 12 ∨ k = 13 ∨ k = 14 ∨ k = 15 := by omega
  rcases this with rfl | rfl | rfl | rfl | rfl <;> decide

/-- Sections of the lengths that the good header asks for: those of V-LD10. -/
theorem witness_LoadReadsTheSections :
    (List.replicate 512 (0x11 : Byte)).length = (if (headerByte trainerHeader 6).getLsbD 2 then 512 else 0) ∧
    (List.replicate 16384 (0x22 : Byte)).length = (headerByte trainerHeader 4).toNat * 16384 ∧
    ([] : List Byte).length = (headerByte trainerHeader 5).toNat * 8192 := by
  simp only [List.length_replicate, List.length_nil]; decide

theorem witness_BootGivesAGoodMachine :
    (LowBus.flat []).ram.wf ∧ (LowBus.flat []).ram.within 0x8000 ∧ mirrored.ram.wf ∧ mirrored.ram.within 0x8000 ∧
    0x8000 ≤ referenceParams.vecReset.toNat ∧ referenceParams.vecReset.toNat < 0xFFFF ∧
    ∀ low, ∃ s, boot referenceParams (trainerHeader ++ (List.replicate 512 0x11 ++ List.replicate 16384 0x22)) low = .ok s :=
  ⟨by decide, by decide, by decide, by decide, by decide, by decide, fun low => ⟨_, by
    show (load 2 _).map _ = _
    rw [test_load_V_LD10 _ _ List.length_replicate List.length_replicate]; rfl⟩⟩

/-- A state with the four-page cartridge that meets the invariant. -/
theorem witness_Inv : { base with bus := mp }.Inv := ⟨witness_good_bus, rfl⟩

/-- The last clause of HostCallsTouchOnlyTheirTarget has the same premise. -/
theorem witness_EveryStepKeepsTheInvariant :
    { base with bus := mp }.Inv ∧ ∃ t, step { base with bus := mp } = .next t := ⟨witness_Inv, _, rfl⟩

/-- A masked IRQ stays, an IRQ that is served goes, and an NMI before it leaves it. -/
theorem witness_NoStepChangesTheCartridge :
    (∃ t, step { ev with irqPending := true, flags := { clear with i := true } } = .next t ∧ t.irqPending = true) ∧
    (∃ t, step { ev with irqPending := true } = .next t ∧ t.irqPending = false) ∧
    (∃ t, step { ev with irqPending := true, nmiPending := true } = .next t ∧ t.irqPending = true) :=
  ⟨⟨_, rfl, rfl⟩, ⟨_, rfl, rfl⟩, ⟨_, rfl, rfl⟩⟩

/-- A store that selects another bank, at each end of the control range. -/
theorem witness_OnlyControlWritesSwitchBanks :
    (∃ t, exec (.staAbs 0x8000) { base with a := 0x01 } = .next t ∧ t.bus.pages ≠ base.bus.pages) ∧
    (∃ t, exec (.staAbs 0xFFFF) { base with a := 0x01 } = .next t ∧ t.bus.pages ≠ base.bus.pages) :=
  ⟨⟨_, rfl, by decide⟩, ⟨_, rfl, by decide⟩⟩

/-- For every flag an instruction that changes it. -/
theorem witness_FlagWritersAreTheListed :
    (∃ t, exec .sec base = .next t ∧ t.flags.c ≠ base.flags.c) ∧
    (∃ t, exec (.ldaImm 0x00) base = .next t ∧ t.flags.z ≠ base.flags.z) ∧
    (∃ t, exec (.ldaImm 0x80) base = .next t ∧ t.flags.n ≠ base.flags.n) ∧
    (∃ t, exec .sei base = .next t ∧ t.flags.i ≠ base.flags.i) ∧
    (∃ t, exec .sed base = .next t ∧ t.flags.d ≠ base.flags.d) ∧
    (∃ t, exec .brk base = .next t ∧ t.flags.b ≠ base.flags.b) ∧
    (∃ t, exec (.adcImm 0x7F) { base with a := 0x01 } = .next t ∧ t.flags.v ≠ base.flags.v) :=
  ⟨⟨_, rfl, by decide⟩, ⟨_, rfl, by decide⟩, ⟨_, rfl, by decide⟩, ⟨_, rfl, by decide⟩, ⟨_, rfl, by decide⟩,
    ⟨_, rfl, by decide⟩, ⟨_, rfl, by decide⟩⟩

/-- For every register, and for RAM, an instruction that changes it. -/
theorem witness_RegisterWritersAreTheListed :
    (∃ t, exec (.ldaImm 0x01) base = .next t ∧ t.a ≠ base.a) ∧
    (∃ t, exec .inx base = .next t ∧ t.x ≠ base.x) ∧
    (∃ t, exec .dey base = .next t ∧ t.y ≠ base.y) ∧
    (∃ t, exec .pla base = .next t ∧ t.sp ≠ base.sp) ∧
    (∃ t, exec .php base = .next t ∧ t.bus.low.ram ≠ base.bus.low.ram) :=
  ⟨⟨_, rfl, by decide⟩, ⟨_, rfl, by decide⟩, ⟨_, rfl, by decide⟩, ⟨_, rfl, by decide⟩, ⟨_, rfl, by decide⟩⟩

theorem witness_BaseCyclesFollowClassAndMode : (Instr.incAbx 0).mnemonic ≠ .unsupported := by decide

end Sys2Proof.Tests
end

section
/-! PROOFS. The status byte bit by bit (10_state.md R27, R28). The flag bits of a packed byte are read off `Flags.unpack_pack`; a
loaded byte packed again agrees with the byte in every bit but 4 (the pusher's) and 5 (constant). -/

namespace Sys2Proof.Proofs.StatusByte

open Sys2Proof Sys2Proof.Machine

theorem pack_bit0 (f : Flags) (b4 : Bool) : (f.pack b4).getLsbD 0 = f.c :=
  congrArg Flags.c (Flags.unpack_pack f b4)

theorem pack_bit1 (f : Flags) (b4 : Bool) : (f.pack b4).getLsbD 1 = f.z :=
  congrArg Flags.z (Flags.unpack_pack f b4)

theorem pack_bit2 (f : Flags) (b4 : Bool) : (f.pack b4).getLsbD 2 = f.i :=
  congrArg Flags.i (Flags.unpack_pack f b4)

theorem pack_bit3 (f : Flags) (b4 : Bool) : (f.pack b4).getLsbD 3 = f.d :=
  congrArg Flags.d (Flags.unpack_pack f b4)

theorem pack_bit6 (f : Flags) (b4 : Bool) : (f.pack b4).getLsbD 6 = f.v :=
  congrArg Flags.v (Flags.unpack_pack f b4)

theorem pack_bit7 (f : Flags) (b4 : Bool) : (f.pack b4).getLsbD 7 = f.n :=
  congrArg Flags.n (Flags.unpack_pack f b4)

/-- Bit 5 is no flag, so `Flags.unpack_pack` does not see it: its value is computed from the sum of R27. -/
theorem pack_bit5 (f : Flags) (b4 : Bool) : (f.pack b4).getLsbD 5 = true := by
  obtain ⟨c, z, i, d, b, v, n⟩ := f
  revert c z i d b v n b4
  decide

/-- Packing what was loaded: bit 5 is set, bit 4 is the pusher's, every other bit is the loaded one. Both
sides are compared bit by bit, in the spelling `getLsbD` that the bit lemmas are stated in. -/
theorem pack_unpack (v : Byte) (b4 : Bool) :
    (Flags.unpack v).pack b4 = if b4 then v ||| 0x30 else (v &&& 0xCF) ||| 0x20 := by
  refine BitVec.eq_of_getLsbD_eq fun k hk => ?_
  cases b4 <;> interval_cases k <;>
    simp [-BitVec.getLsbD_eq_getElem, Flags.unpack, pack_bit0, pack_bit1, pack_bit2, pack_bit3, Flags.pack_bit4, pack_bit5,
      pack_bit6, pack_bit7]

/-- Settles O23: the eight bits of a packed byte, the loaded flags (by definition), and `pack_unpack`. -/
theorem statusByteLayout : Obligations.StatusByteLayout := fun f b4 v =>
  ⟨pack_bit0 f b4, pack_bit1 f b4, pack_bit2 f b4, pack_bit3 f b4, Flags.pack_bit4 f b4, pack_bit5 f b4,
    pack_bit6 f b4, pack_bit7 f b4, rfl, pack_unpack v b4⟩

end Sys2Proof.Proofs.StatusByte
end

section
/-! PROOFS. The two windows at 0x8000 and above (20_memory.md R55, R71): what a write there can do, and where a read there looks. -/

namespace Sys2Proof.Proofs.Windows

open Sys2Proof Sys2Proof.Machine

section Writes

variable (b : Bus) (cfg : Params) {a : Word} (v : Byte)

/-- A window write in the control range is the mapper's alone: it leaves `bankSelect`'s answer as the bank selection (R73). -/
theorem write_pages_of_control (hw : 0x8000 ≤ a.toNat) (hc : cfg.ctrlLo.toNat ≤ a.toNat ∧ a.toNat ≤ cfg.ctrlHi.toNat) :
    (b.write cfg a v).pages = bankSelect cfg.bankSelect a v b.pages b.cart.prgRomPages :=
  (Bus.write_pages cfg a v b).trans (if_pos ⟨hw, hc⟩)

/-- Whatever is written, and wherever, the selected banks go on existing (R36, R74 a). -/
theorem write_pages_valid (hb : Pages.valid b.pages b.cart.prgRomPages) :
    Pages.valid (b.write cfg a v).pages b.cart.prgRomPages := by
  rw [Bus.write_pages]
  split
  · exact bankSelect_valid _ a v hb
  · exact hb

/-- A window write outside the control range is ignored (R55). -/
theorem write_eq_self_of_not_control (hw : 0x8000 ≤ a.toNat)
    (hc : a.toNat < cfg.ctrlLo.toNat ∨ cfg.ctrlHi.toNat < a.toNat) : b.write cfg a v = b := by
  have hlow : ¬ a.toNat < 0x8000 := by omega
  have hctrl : ¬ (cfg.ctrlLo.toNat ≤ a.toNat ∧ a.toNat ≤ cfg.ctrlHi.toNat) := by omega
  rw [Bus.write, if_neg hlow, if_neg hctrl]

end Writes

/-- Settles O45: nothing below 0x8000 and no ROM is written; what is left is the bank selection, in the control range alone. -/
theorem windowWritesOnlySelectBanks : Obligations.WindowWritesOnlySelectBanks := fun b cfg a v hw =>
  have hlow : ¬ a.toNat < 0x8000 := by omega
  ⟨(Bus.write_low_eq cfg a v b).trans (if_neg hlow), Bus.write_cart cfg a v b, write_pages_of_control b cfg v hw,
    write_pages_valid b cfg v, write_eq_self_of_not_control b cfg v hw⟩

/-- `translate_window` with the lower window ending at 0xBFFF and the bank size as the number that R71 writes. -/
theorem translate_eq_bank_mul_add (p : Pages) {a : Word} (hw : 0x8000 ≤ a.toNat) :
    translate p a = some ((if a.toNat ≤ 0xBFFF then p.lower else p.upper) * 16384 + a.toNat % 16384) := by
  have hlower : a.toNat ≤ 0xBFFF ↔ a.toNat < 0xC000 := Nat.lt_succ_iff.symm
  simp only [translate_window p hw, hlower, prgPageSize]

/-- Where `translate` is defined, the bus answers the program-ROM byte at its offset (R53). -/
theorem read_eq_prgRom_of_translate {b : Bus} {a : Word} {k : Nat} (hk : translate b.pages a = some k) :
    b.read a = b.cart.prgRom.read k := by
  simp only [Bus.read, hk]

/-- Settles O46: the offset is `translate`'s, which `translate_lt` keeps inside the program ROM of a good bus. -/
theorem windowsTranslateThroughTheBanks : Obligations.WindowsTranslateThroughTheBanks := fun b _ hb hw =>
  have hk := translate_eq_bank_mul_add b.pages hw
  ⟨hk, translate_lt hb hk, read_eq_prgRom_of_translate hk⟩

end Sys2Proof.Proofs.Windows
end

section
/-! PROOFS. The instruction shapes of Machine/Operands.lean in the plain arithmetic that the statements are written in: what
resolving and fetching an operand answer (R130 to R145), and what a read-class, a store-class and an implied instruction leave. -/

namespace Sys2Proof.Proofs.Operands

open Sys2Proof Sys2Proof.Machine Sys2Proof.Claims

/-! ### Words and flags as numbers -/

/-- A word is known by its number. -/
theorem eq_ofNat_of_toNat_eq {w : Word} {n : Nat} (h : w.toNat = n) : w = BitVec.ofNat 16 n := by
  rw [← h, BitVec.ofNat_toNat, BitVec.setWidth_eq]

theorem zext_eq_ofNat (b : Byte) : zext b = BitVec.ofNat 16 b.toNat := eq_ofNat_of_toNat_eq (zext_toNat b)

/-- The concatenation `{h, l}` as R57 writes it. -/
theorem word_eq_ofNat (h l : Byte) : word h l = BitVec.ofNat 16 (l.toNat + 256 * h.toNat) := by
  refine eq_ofNat_of_toNat_eq ?_
  rw [word_toNat, Nat.mul_comm, Nat.add_comm]

/-- Adding an index wraps at 65536, and the page-cross flag compares the high bytes as numbers (R138 to R140). -/
theorem indexed_eq (base : Word) (index : Byte) :
    indexed base index =
      ⟨BitVec.ofNat 16 ((base.toNat + index.toNat) % 65536),
        base.toNat / 256 != (base.toNat + index.toNat) % 65536 / 256⟩ := by
  have hea : (base + zext index).toNat = (base.toNat + index.toNat) % 65536 := by rw [BitVec.toNat_add, zext_toNat]
  have hpage : samePage base (base + zext index) = (base.toNat / 256 == (base.toNat + index.toNat) % 65536 / 256) := by
    rw [Bool.eq_iff_iff, samePage_iff, hea, beq_iff_eq]
  rw [indexed, hpage, eq_ofNat_of_toNat_eq hea, bne]

/-- `SetZN` as the two comparisons of numbers that R10 makes. -/
theorem setZN_eq_zn (v : Byte) (f : Flags) : f.setZN v = zn v f := by
  have hz : (v == 0) = decide (v.toNat = 0) := by
    rw [Bool.eq_iff_iff, beq_iff_eq, decide_eq_true_iff, ← BitVec.toNat_inj]; rfl
  rw [Flags.setZN, zn, hz, BitVec.msb_eq_decide]

/-! ### Reads of a row of cells -/

theorem looks_append (ks ls : List Nat) (s : State) : looks (ks ++ ls) s = looks ls (looks ks s) := by
  induction ks generalizing s with
  | nil => rfl
  | cons k ks ih => exact ih (look k s)

/-- Reads change the bus and the record of accesses, and no other field. -/
theorem looks_frame (ks : List Nat) (s : State) :
    looks ks s = { s with bus := (looks ks s).bus, busTrace := (looks ks s).busTrace } := by
  induction ks generalizing s with
  | nil => rfl
  | cons k ks ih => exact ih (look k s)

@[simp] theorem looks_flags (ks : List Nat) (s : State) : (looks ks s).flags = s.flags :=
  (congrArg State.flags (looks_frame ks s) :)

@[simp] theorem looks_cfg (ks : List Nat) (s : State) : (looks ks s).cfg = s.cfg :=
  (congrArg State.cfg (looks_frame ks s) :)

theorem afterRead_flags (i : Instr) (s : State) : (afterRead i s).flags = s.flags := looks_flags _ s

/-! ### Resolving and fetching -/

/-- A zero-page pointer is the number that its two bytes make, read low byte first (R143, R144). -/
theorem readPointer_eq_pointer (z : Byte) (s : State) :
    readPointer z s = (BitVec.ofNat 16 (pointer s z.toNat), looks [z.toNat, (z.toNat + 1) % 256] s) := by
  have hnext : zext (z + 1) = BitVec.ofNat 16 ((z.toNat + 1) % 256) := by
    rw [zext_eq_ofNat, BitVec.toNat_add]; rfl
  rw [readPointer_eq, zext_eq_ofNat, hnext, word_eq_ofNat]
  rfl

theorem pointer_lt (s : State) (z : Nat) : pointer s z < 65536 := by
  unfold pointer numberAt
  omega

/-- What a memory mode resolves to, and the pointer reads it makes on the way. -/
theorem resolve_eq (m : MemMode) (s : State) :
    resolve m s = (⟨BitVec.ofNat 16 (ea m s), crossed m s⟩, looks (pointerCells m s) s) := by
  cases m with
  | zp b => rw [resolve, zext_eq_ofNat]; rfl
  | zpx b => rw [resolve, zext_eq_ofNat, BitVec.toNat_add]; rfl
  | zpy b => rw [resolve, zext_eq_ofNat, BitVec.toNat_add]; rfl
  | abs w => rw [resolve, ea, ← eq_ofNat_of_toNat_eq rfl]; rfl
  | abx w => rw [resolve, indexed_eq]; rfl
  | aby w => rw [resolve, indexed_eq]; rfl
  | izx b => rw [resolve, readPointer_eq_pointer, BitVec.toNat_add]; rfl
  | izy b =>
    simp only [resolve, readPointer_eq_pointer, indexed_eq, BitVec.toNat_ofNat, Nat.mod_eq_of_lt (pointer_lt s b.toNat)]
    rfl

/-- Resolving and the advance of PC do not see each other. -/
theorem resolve_advance (m : MemMode) (n : Nat) (s : State) :
    resolve m (s.advance n) = ((resolve m s).1, (resolve m s).2.advance n) := by
  cases m <;> rfl

/-- The read accessor answers the operand and the page-cross flag, after the reads of the operand's cells (R145). -/
theorem fetch_eq (src : Source) (s : State) :
    src.fetch s =
      ⟨value src.operand s, operandCrossed src.operand s, looks (operandCells src.operand s) s⟩ := by
  cases src with
  | imm v => rfl
  | mem m =>
    rw [Source.fetch, resolve_eq]
    simp only [Source.operand, operandCells, looks_append]
    rfl

/-- Fetching an operand and the advance of PC do not see each other. -/
theorem fetch_advance (src : Source) (n : Nat) (s : State) :
    src.fetch (s.advance n) = { src.fetch s with state := (src.fetch s).state.advance n } := by
  cases src with
  | imm v => rfl
  | mem m => rw [Source.fetch, resolve_advance]; rfl

/-! ### The shapes of instruction -/

/-- PC past the instruction and its cycles counted: the two ends of every shape (R103, R308). -/
theorem charge_advance (i : Instr) (k : Bool) (s : State) :
    (s.advance (1 + i.operand.width)).charge i.opcode k = stepped i (k && paysPageCross i.opcode).toNat s := by
  cases h : k && paysPageCross i.opcode <;>
    simp [State.charge, State.addCycles, State.advance, stepped, h, Nat.add_assoc]

/-- A read-class instruction is its rule applied to the operand, in the state that the read leaves. The rule neither reads nor
writes the cycle count, and the opcode pays whenever its index addition crosses a page (R147). -/
theorem readInstr_eq {i : Instr} {src : Source} (hsrc : i.operand = src.operand) {s : State}
    (hpay : operandCrossed i.operand s = true → paysPageCross i.opcode = true) {f : Byte → State → State}
    (hf : ∀ v t op k, (f v t).charge op k = f v (t.charge op k)) :
    readInstr i.opcode src f s = f (value i.operand s) (afterRead i s) := by
  have hcross : (operandCrossed i.operand s && paysPageCross i.opcode) = operandCrossed i.operand s := by
    rwa [Bool.and_eq_left_iff_imp]
  rw [readInstr, ← hsrc, fetch_advance, fetch_eq, ← hsrc, hf, charge_advance, hcross]
  rfl

/-- A write after the reads of `cells`, by an opcode that pays for no page cross (R147). -/
theorem charge_memWrite {i : Instr} (hpay : paysPageCross i.opcode = false) (m : MemMode) (cells : List Nat) (v : Byte)
    (k : Bool) (s : State) :
    (memWrite (BitVec.ofNat 16 (ea m s)) v ((looks cells s).advance (1 + i.operand.width))).charge i.opcode k =
      afterWrite i m cells v s := by
  have hstep := charge_advance i k (looks cells s)
  rw [hpay, Bool.and_false] at hstep
  rw [afterWrite, ← looks_cfg cells s]
  exact congrArg (memWrite _ v) hstep

/-- A store-class instruction writes `v` at the effective address. The stored value is a register: no read changes it. -/
theorem storeInstr_eq {i : Instr} {m : MemMode} (hm : i.operand = .mem m) (hpay : paysPageCross i.opcode = false)
    {v : State → Byte} (hv : ∀ t pc bus busTrace, v { t with pc, bus, busTrace } = v t) (s : State) :
    storeInstr i.opcode m v s = afterStore i (v s) s := by
  have hval : v ((looks (pointerCells m s) s).advance (1 + i.operand.width)) = v s := by
    rw [looks_frame]
    exact hv s (s.pc + BitVec.ofNat 16 (1 + i.operand.width)) _ _
  rw [storeInstr, ← hm, resolve_advance, resolve_eq, afterStore]
  simp only [hval, charge_memWrite hpay]
  rw [hm]

/-- An implied-mode instruction is its rule, with PC past the opcode and the base cycles counted (R131). -/
theorem impliedInstr_eq {i : Instr} (hi : i.operand = .imp) {f : State → State}
    (hf : ∀ t op k, (f t).charge op k = f (t.charge op k)) (s : State) :
    impliedInstr i.opcode f s = f (afterImplied i s) := by
  have hstep := charge_advance i false s
  rw [hi] at hstep
  rw [impliedInstr, hf]
  exact congrArg f hstep

/-! ### From a row of the table to its effect -/

/-- The mnemonics that read their operand and write no memory (R147). -/
def readMnemonics : List Mnemonic := [.lda, .ldx, .ldy, .adc, .sbc, .cmp, .cpx, .cpy, .and, .ora, .eor, .bit]

/-- A read-class instruction pays whenever its index addition crosses a page (R147). -/
theorem paysPageCross_of_crossed {i : Instr} (hi : i.mnemonic ∈ readMnemonics) {s : State}
    (hc : operandCrossed i.operand s = true) : paysPageCross i.opcode = true := by
  cases i
  case ldaAbx | ldyAbx | adcAbx | sbcAbx | cmpAbx | andAbx | oraAbx | eorAbx => rfl
  case ldaAby | ldxAby | adcAby | sbcAby | cmpAby | andAby | oraAby | eorAby => rfl
  case ldaIzy | adcIzy | sbcIzy | cmpIzy | andIzy | oraIzy | eorIzy => rfl
  case staAbx | staAby | staIzy => simp [readMnemonics, Instr.mnemonic] at hi
  case incAbx | decAbx | aslAbx | lsrAbx | rolAbx | rorAbx => simp [readMnemonics, Instr.mnemonic] at hi
  all_goals cases hc

/-- `i` is a row of the table that runs as a read-class instruction with the rule `f`. -/
def RunsAsRead (f : Byte → State → State) (i : Instr) : Prop :=
  ∃ src : Source, i.operand = src.operand ∧ ∀ s, exec i s = .next (readInstr i.opcode src f s)

/-- `i` is a row of the table that runs as a store-class instruction of the register `v`. -/
def RunsAsStore (v : State → Byte) (i : Instr) : Prop :=
  ∃ m : MemMode, i.operand = .mem m ∧ ∀ s, exec i s = .next (storeInstr i.opcode m v s)

/-- `i` is a row of the table that runs as an implied-mode instruction with the rule `f`. -/
def RunsAsImplied (f : State → State) (i : Instr) : Prop :=
  i.operand = .imp ∧ ∀ s, exec i s = .next (impliedInstr i.opcode f s)

theorem RunsAsRead.exec_eq {f : Byte → State → State} {i : Instr} (h : RunsAsRead f i) {n : Mnemonic}
    (hi : i.mnemonic = n) (hn : n ∈ readMnemonics) (hf : ∀ v t op k, (f v t).charge op k = f v (t.charge op k))
    (s : State) : exec i s = .next (f (value i.operand s) (afterRead i s)) := by
  obtain ⟨src, hsrc, hexec⟩ := h
  rw [hexec, readInstr_eq hsrc (paysPageCross_of_crossed (hi ▸ hn)) hf]

theorem RunsAsStore.exec_eq {v : State → Byte} {i : Instr} (h : RunsAsStore v i) {ops : List Byte} (hop : i.opcode ∈ ops)
    (hops : ∀ op ∈ ops, paysPageCross op = false)
    (hv : ∀ t pc bus busTrace, v { t with pc, bus, busTrace } = v t) (s : State) :
    exec i s = .next (afterStore i (v s) s) := by
  obtain ⟨m, hm, hexec⟩ := h
  rw [hexec, storeInstr_eq hm (hops _ hop) hv]

theorem RunsAsImplied.exec_eq {f : State → State} {i : Instr} (h : RunsAsImplied f i)
    (hf : ∀ t op k, (f t).charge op k = f (t.charge op k)) (s : State) : exec i s = .next (f (afterImplied i s)) := by
  obtain ⟨hi, hexec⟩ := h
  rw [hexec, impliedInstr_eq hi hf]

end Sys2Proof.Proofs.Operands
end

section
/-! PROOFS. Loads, stores and register transfers (41_load_store_transfer.md R160 to R172). Each row of a mnemonic has one of the
shapes of Operands, with the mnemonic's rule; what the rule leaves is then read off the shape's law. -/

namespace Sys2Proof.Proofs.LoadStore

open Sys2Proof Sys2Proof.Machine Sys2Proof.Claims Sys2Proof.Proofs.Operands

/-! ### The rules of R160 to R163 -/

theorem loadA_eq (v : Byte) (s : State) : loadA v s = { s with a := v, flags := zn v s.flags } := by
  rw [loadA, setZN_eq_zn]

theorem loadX_eq (v : Byte) (s : State) : loadX v s = { s with x := v, flags := zn v s.flags } := by
  rw [loadX, setZN_eq_zn]

theorem loadY_eq (v : Byte) (s : State) : loadY v s = { s with y := v, flags := zn v s.flags } := by
  rw [loadY, setZN_eq_zn]

/-! ### Loads -/

theorem lda_rows {i : Instr} (h : i.mnemonic = .lda) :
    i.opcode ∈ [0xA9, 0xA5, 0xB5, 0xAD, 0xBD, 0xB9, 0xA1, 0xB1] ∧ RunsAsRead loadA i := by
  match i, h with
  | .ldaImm v, _ => exact ⟨by simp [Instr.opcode], .imm v, rfl, fun _ => rfl⟩
  | .ldaZp b, _ => exact ⟨by simp [Instr.opcode], .mem (.zp b), rfl, fun _ => rfl⟩
  | .ldaZpx b, _ => exact ⟨by simp [Instr.opcode], .mem (.zpx b), rfl, fun _ => rfl⟩
  | .ldaAbs w, _ => exact ⟨by simp [Instr.opcode], .mem (.abs w), rfl, fun _ => rfl⟩
  | .ldaAbx w, _ => exact ⟨by simp [Instr.opcode], .mem (.abx w), rfl, fun _ => rfl⟩
  | .ldaAby w, _ => exact ⟨by simp [Instr.opcode], .mem (.aby w), rfl, fun _ => rfl⟩
  | .ldaIzx b, _ => exact ⟨by simp [Instr.opcode], .mem (.izx b), rfl, fun _ => rfl⟩
  | .ldaIzy b, _ => exact ⟨by simp [Instr.opcode], .mem (.izy b), rfl, fun _ => rfl⟩

theorem ldx_rows {i : Instr} (h : i.mnemonic = .ldx) :
    i.opcode ∈ [0xA2, 0xA6, 0xB6, 0xAE, 0xBE] ∧ RunsAsRead loadX i := by
  match i, h with
  | .ldxImm v, _ => exact ⟨by simp [Instr.opcode], .imm v, rfl, fun _ => rfl⟩
  | .ldxZp b, _ => exact ⟨by simp [Instr.opcode], .mem (.zp b), rfl, fun _ => rfl⟩
  | .ldxZpy b, _ => exact ⟨by simp [Instr.opcode], .mem (.zpy b), rfl, fun _ => rfl⟩
  | .ldxAbs w, _ => exact ⟨by simp [Instr.opcode], .mem (.abs w), rfl, fun _ => rfl⟩
  | .ldxAby w, _ => exact ⟨by simp [Instr.opcode], .mem (.aby w), rfl, fun _ => rfl⟩

theorem ldy_rows {i : Instr} (h : i.mnemonic = .ldy) :
    i.opcode ∈ [0xA0, 0xA4, 0xB4, 0xAC, 0xBC] ∧ RunsAsRead loadY i := by
  match i, h with
  | .ldyImm v, _ => exact ⟨by simp [Instr.opcode], .imm v, rfl, fun _ => rfl⟩
  | .ldyZp b, _ => exact ⟨by simp [Instr.opcode], .mem (.zp b), rfl, fun _ => rfl⟩
  | .ldyZpx b, _ => exact ⟨by simp [Instr.opcode], .mem (.zpx b), rfl, fun _ => rfl⟩
  | .ldyAbs w, _ => exact ⟨by simp [Instr.opcode], .mem (.abs w), rfl, fun _ => rfl⟩
  | .ldyAbx w, _ => exact ⟨by simp [Instr.opcode], .mem (.abx w), rfl, fun _ => rfl⟩

/-- Settles O7: the rule of the register, applied to the operand in the state that its one read leaves. -/
theorem loadsWriteTheRegisterAndZN : Obligations.LoadsWriteTheRegisterAndZN := by
  intro i s
  refine ⟨fun h => ?_, fun h => ?_, fun h => ?_⟩
  · obtain ⟨hop, hrun⟩ := lda_rows h
    exact ⟨hop, by rw [hrun.exec_eq h (by decide) fun _ _ _ _ => rfl, loadA_eq, afterRead_flags]⟩
  · obtain ⟨hop, hrun⟩ := ldx_rows h
    exact ⟨hop, by rw [hrun.exec_eq h (by decide) fun _ _ _ _ => rfl, loadX_eq, afterRead_flags]⟩
  · obtain ⟨hop, hrun⟩ := ldy_rows h
    exact ⟨hop, by rw [hrun.exec_eq h (by decide) fun _ _ _ _ => rfl, loadY_eq, afterRead_flags]⟩

/-! ### Stores -/

theorem sta_rows {i : Instr} (h : i.mnemonic = .sta) :
    i.opcode ∈ [0x85, 0x95, 0x8D, 0x9D, 0x99, 0x81, 0x91] ∧ RunsAsStore State.a i := by
  match i, h with
  | .staZp b, _ => exact ⟨by simp [Instr.opcode], .zp b, rfl, fun _ => rfl⟩
  | .staZpx b, _ => exact ⟨by simp [Instr.opcode], .zpx b, rfl, fun _ => rfl⟩
  | .staAbs w, _ => exact ⟨by simp [Instr.opcode], .abs w, rfl, fun _ => rfl⟩
  | .staAbx w, _ => exact ⟨by simp [Instr.opcode], .abx w, rfl, fun _ => rfl⟩
  | .staAby w, _ => exact ⟨by simp [Instr.opcode], .aby w, rfl, fun _ => rfl⟩
  | .staIzx b, _ => exact ⟨by simp [Instr.opcode], .izx b, rfl, fun _ => rfl⟩
  | .staIzy b, _ => exact ⟨by simp [Instr.opcode], .izy b, rfl, fun _ => rfl⟩

theorem stx_rows {i : Instr} (h : i.mnemonic = .stx) : i.opcode ∈ [0x86, 0x96, 0x8E] ∧ RunsAsStore State.x i := by
  match i, h with
  | .stxZp b, _ => exact ⟨by simp [Instr.opcode], .zp b, rfl, fun _ => rfl⟩
  | .stxZpy b, _ => exact ⟨by simp [Instr.opcode], .zpy b, rfl, fun _ => rfl⟩
  | .stxAbs w, _ => exact ⟨by simp [Instr.opcode], .abs w, rfl, fun _ => rfl⟩

theorem sty_rows {i : Instr} (h : i.mnemonic = .sty) : i.opcode ∈ [0x84, 0x94, 0x8C] ∧ RunsAsStore State.y i := by
  match i, h with
  | .styZp b, _ => exact ⟨by simp [Instr.opcode], .zp b, rfl, fun _ => rfl⟩
  | .styZpx b, _ => exact ⟨by simp [Instr.opcode], .zpx b, rfl, fun _ => rfl⟩
  | .styAbs w, _ => exact ⟨by simp [Instr.opcode], .abs w, rfl, fun _ => rfl⟩

/-- Settles O8: the pointer reads, then the one write; none of the opcodes listed pays for a page cross. -/
theorem storesWriteTheEffectiveAddress : Obligations.StoresWriteTheEffectiveAddress := by
  intro i s
  refine ⟨fun h => ?_, fun h => ?_, fun h => ?_⟩
  · obtain ⟨hop, hrun⟩ := sta_rows h
    exact ⟨hop, hrun.exec_eq hop (by decide) (fun _ _ _ _ => rfl) s⟩
  · obtain ⟨hop, hrun⟩ := stx_rows h
    exact ⟨hop, hrun.exec_eq hop (by decide) (fun _ _ _ _ => rfl) s⟩
  · obtain ⟨hop, hrun⟩ := sty_rows h
    exact ⟨hop, hrun.exec_eq hop (by decide) (fun _ _ _ _ => rfl) s⟩

/-! ### Transfers -/

theorem tax_row : RunsAsImplied (fun s => loadX s.a s) .tax := ⟨rfl, fun _ => rfl⟩
theorem tay_row : RunsAsImplied (fun s => loadY s.a s) .tay := ⟨rfl, fun _ => rfl⟩
theorem txa_row : RunsAsImplied (fun s => loadA s.x s) .txa := ⟨rfl, fun _ => rfl⟩
theorem tya_row : RunsAsImplied (fun s => loadA s.y s) .tya := ⟨rfl, fun _ => rfl⟩
theorem txs_row : RunsAsImplied (fun s => { s with sp := s.x }) .txs := ⟨rfl, fun _ => rfl⟩
theorem tsx_row : RunsAsImplied (fun s => loadX s.sp s) .tsx := ⟨rfl, fun _ => rfl⟩

/-- Settles O10: each transfer is its rule in the state with PC and cycles moved on; only TXS's rule leaves the flags. -/
theorem transfersCopyTheRegister : Obligations.TransfersCopyTheRegister := by
  refine ⟨rfl, fun s => ⟨?_, ?_, ?_, ?_, ?_, ?_⟩⟩
  · rw [tax_row.exec_eq fun _ _ _ => rfl, loadX_eq]; rfl
  · rw [tay_row.exec_eq fun _ _ _ => rfl, loadY_eq]; rfl
  · rw [txa_row.exec_eq fun _ _ _ => rfl, loadA_eq]; rfl
  · rw [tya_row.exec_eq fun _ _ _ => rfl, loadA_eq]; rfl
  · rw [txs_row.exec_eq fun _ _ _ => rfl]; rfl
  · rw [tsx_row.exec_eq fun _ _ _ => rfl, loadX_eq]; rfl

end Sys2Proof.Proofs.LoadStore
end

section
/-! PROOFS. The read-modify-write shape of Machine/Operands.lean (R86, R146) in the terms of the statements: one read of the
operand, then one write of the rule's result to the same place, with the rule's flags. -/

namespace Sys2Proof.Proofs.Modify

open Sys2Proof Sys2Proof.Machine Sys2Proof.Claims Sys2Proof.Proofs.Operands

/-- A read-modify-write instruction writes back what its rule makes of the operand and of the flags before it; its opcode pays
for no page cross (R147). The flags are set before the write, which neither reads nor changes them. -/
theorem modifyInstr_eq {i : Instr} {tgt : Target} (htgt : i.operand = tgt.operand) (hpay : paysPageCross i.opcode = false)
    (f : Byte → Flags → Modified) (s : State) :
    modifyInstr i.opcode tgt f s =
      { afterModify i (f (value i.operand s) s.flags).1 s with flags := (f (value i.operand s) s.flags).2 } := by
  cases tgt with
  | acc =>
    have hstep := charge_advance i false s
    rw [htgt] at hstep
    rw [afterModify, htgt]
    exact congrArg (fun t : State => { t with flags := (f s.a s.flags).2, a := (f s.a s.flags).1 }) hstep
  | mem m =>
    have hread := looks_append (pointerCells m s) [ea m s] s
    have hwrite := charge_memWrite hpay m (operandCells (.mem m) s) (f (value (.mem m) s) s.flags).1 (crossed m s) s
    rw [htgt, operandCells, Target.operand, hread] at hwrite
    rw [modifyInstr_mem, resolve_advance, resolve_eq, afterModify, htgt]
    simp only [memRead_eq, State.look_flags, State.advance_flags, looks_flags]
    exact congrArg (fun t : State => { t with flags := (f (value (.mem m) s) s.flags).2 }) hwrite

/-- `i` is a row of the table that runs as a read-modify-write instruction with the rule `f`. -/
def RunsAsModify (f : Byte → Flags → Modified) (i : Instr) : Prop :=
  ∃ tgt : Target, i.operand = tgt.operand ∧ ∀ s, exec i s = .next (modifyInstr i.opcode tgt f s)

theorem RunsAsModify.exec_eq {f : Byte → Flags → Modified} {i : Instr} (h : RunsAsModify f i) {ops : List Byte}
    (hop : i.opcode ∈ ops) (hops : ∀ op ∈ ops, paysPageCross op = false) (s : State) :
    exec i s = .next { afterModify i (f (value i.operand s) s.flags).1 s with
      flags := (f (value i.operand s) s.flags).2 } := by
  obtain ⟨tgt, htgt, hexec⟩ := h
  rw [hexec, modifyInstr_eq htgt (hops _ hop)]

end Sys2Proof.Proofs.Modify
end

section
/-! PROOFS. Compares, increments and decrements (42_arithmetic.md R185 to R193). Each rule is first put in the plain arithmetic of
the statements; each row of a mnemonic then has a shape of Operands or Modify with that rule. -/

namespace Sys2Proof.Proofs.CompareAndCount

open Sys2Proof Sys2Proof.Machine Sys2Proof.Claims Sys2Proof.Proofs.Operands Sys2Proof.Proofs.Modify
open Sys2Proof.Proofs.LoadStore

/-! ### Sums and differences of bytes as numbers -/

theorem add_one_eq_ofNat (r : Byte) : r + 1 = BitVec.ofNat 8 (r.toNat + 1) := by
  rw [BitVec.ofNat_add, BitVec.ofNat_toNat, BitVec.setWidth_eq]
  rfl

/-- The difference modulo 256, written without a negative number. -/
theorem sub_eq_ofNat (r v : Byte) : r - v = BitVec.ofNat 8 (r.toNat + 256 - v.toNat) := by
  have hv := v.isLt
  refine BitVec.eq_of_toNat_eq ?_
  rw [BitVec.toNat_sub, BitVec.toNat_ofNat]
  omega

theorem sub_one_eq_ofNat (r : Byte) : r - 1 = BitVec.ofNat 8 (r.toNat + 255) := sub_eq_ofNat r 1

/-! ### Compares -/

/-- The flags of a compare (R185 to R187): C from the two bytes, Z and N from their difference. -/
theorem compare_eq_czn (r v : Byte) (f : Flags) :
    f.compare r v = czn (decide (v.toNat ≤ r.toNat)) (BitVec.ofNat 8 (r.toNat + 256 - v.toNat)) f := by
  rw [Flags.compare, setZN_eq_zn, sub_eq_ofNat]
  rfl

theorem cmp_rows {i : Instr} (h : i.mnemonic = .cmp) :
    i.opcode ∈ [0xC9, 0xC5, 0xD5, 0xCD, 0xDD, 0xD9, 0xC1, 0xD1] ∧ RunsAsRead compareA i := by
  match i, h with
  | .cmpImm v, _ => exact ⟨by simp [Instr.opcode], .imm v, rfl, fun _ => rfl⟩
  | .cmpZp b, _ => exact ⟨by simp [Instr.opcode], .mem (.zp b), rfl, fun _ => rfl⟩
  | .cmpZpx b, _ => exact ⟨by simp [Instr.opcode], .mem (.zpx b), rfl, fun _ => rfl⟩
  | .cmpAbs w, _ => exact ⟨by simp [Instr.opcode], .mem (.abs w), rfl, fun _ => rfl⟩
  | .cmpAbx w, _ => exact ⟨by simp [Instr.opcode], .mem (.abx w), rfl, fun _ => rfl⟩
  | .cmpAby w, _ => exact ⟨by simp [Instr.opcode], .mem (.aby w), rfl, fun _ => rfl⟩
  | .cmpIzx b, _ => exact ⟨by simp [Instr.opcode], .mem (.izx b), rfl, fun _ => rfl⟩
  | .cmpIzy b, _ => exact ⟨by simp [Instr.opcode], .mem (.izy b), rfl, fun _ => rfl⟩

theorem cpx_rows {i : Instr} (h : i.mnemonic = .cpx) : i.opcode ∈ [0xE0, 0xE4, 0xEC] ∧ RunsAsRead compareX i := by
  match i, h with
  | .cpxImm v, _ => exact ⟨by simp [Instr.opcode], .imm v, rfl, fun _ => rfl⟩
  | .cpxZp b, _ => exact ⟨by simp [Instr.opcode], .mem (.zp b), rfl, fun _ => rfl⟩
  | .cpxAbs w, _ => exact ⟨by simp [Instr.opcode], .mem (.abs w), rfl, fun _ => rfl⟩

theorem cpy_rows {i : Instr} (h : i.mnemonic = .cpy) : i.opcode ∈ [0xC0, 0xC4, 0xCC] ∧ RunsAsRead compareY i := by
  match i, h with
  | .cpyImm v, _ => exact ⟨by simp [Instr.opcode], .imm v, rfl, fun _ => rfl⟩
  | .cpyZp b, _ => exact ⟨by simp [Instr.opcode], .mem (.zp b), rfl, fun _ => rfl⟩
  | .cpyAbs w, _ => exact ⟨by simp [Instr.opcode], .mem (.abs w), rfl, fun _ => rfl⟩

theorem afterRead_a (i : Instr) (s : State) : (afterRead i s).a = s.a := (congrArg State.a (looks_frame _ s) :)
theorem afterRead_x (i : Instr) (s : State) : (afterRead i s).x = s.x := (congrArg State.x (looks_frame _ s) :)
theorem afterRead_y (i : Instr) (s : State) : (afterRead i s).y = s.y := (congrArg State.y (looks_frame _ s) :)

/-- Settles O16: the rule of the register, applied to the operand in the state that its one read leaves; the read leaves the
register and the flags that the rule looks at. -/
theorem comparesSetCZN : Obligations.ComparesSetCZN := by
  intro i s
  refine ⟨fun h => ?_, fun h => ?_, fun h => ?_⟩
  · obtain ⟨hop, hrun⟩ := cmp_rows h
    refine ⟨hop, (hrun.exec_eq h (by decide) (fun _ _ _ _ => rfl) s).trans ?_⟩
    simp only [compareA, compare_eq_czn, afterRead_flags, afterRead_a]
  · obtain ⟨hop, hrun⟩ := cpx_rows h
    refine ⟨hop, (hrun.exec_eq h (by decide) (fun _ _ _ _ => rfl) s).trans ?_⟩
    simp only [compareX, compare_eq_czn, afterRead_flags, afterRead_x]
  · obtain ⟨hop, hrun⟩ := cpy_rows h
    refine ⟨hop, (hrun.exec_eq h (by decide) (fun _ _ _ _ => rfl) s).trans ?_⟩
    simp only [compareY, compare_eq_czn, afterRead_flags, afterRead_y]

/-! ### INC and DEC -/

theorem increment_eq (v : Byte) (f : Flags) :
    increment v f = (BitVec.ofNat 8 (v.toNat + 1), zn (BitVec.ofNat 8 (v.toNat + 1)) f) := by
  rw [increment, setZN_eq_zn, add_one_eq_ofNat]

theorem decrement_eq (v : Byte) (f : Flags) :
    decrement v f = (BitVec.ofNat 8 (v.toNat + 255), zn (BitVec.ofNat 8 (v.toNat + 255)) f) := by
  rw [decrement, setZN_eq_zn, sub_one_eq_ofNat]

theorem inc_rows {i : Instr} (h : i.mnemonic = .inc) :
    i.opcode ∈ [0xE6, 0xF6, 0xEE, 0xFE] ∧ RunsAsModify increment i := by
  match i, h with
  | .incZp b, _ => exact ⟨by simp [Instr.opcode], .mem (.zp b), rfl, fun _ => rfl⟩
  | .incZpx b, _ => exact ⟨by simp [Instr.opcode], .mem (.zpx b), rfl, fun _ => rfl⟩
  | .incAbs w, _ => exact ⟨by simp [Instr.opcode], .mem (.abs w), rfl, fun _ => rfl⟩
  | .incAbx w, _ => exact ⟨by simp [Instr.opcode], .mem (.abx w), rfl, fun _ => rfl⟩

theorem dec_rows {i : Instr} (h : i.mnemonic = .dec) :
    i.opcode ∈ [0xC6, 0xD6, 0xCE, 0xDE] ∧ RunsAsModify decrement i := by
  match i, h with
  | .decZp b, _ => exact ⟨by simp [Instr.opcode], .mem (.zp b), rfl, fun _ => rfl⟩
  | .decZpx b, _ => exact ⟨by simp [Instr.opcode], .mem (.zpx b), rfl, fun _ => rfl⟩
  | .decAbs w, _ => exact ⟨by simp [Instr.opcode], .mem (.abs w), rfl, fun _ => rfl⟩
  | .decAbx w, _ => exact ⟨by simp [Instr.opcode], .mem (.abx w), rfl, fun _ => rfl⟩

/-- Settles O17: the read-modify-write shape with the rule of R188 or R191; none of the opcodes listed pays for a page cross. -/
theorem incDecModifyMemory : Obligations.IncDecModifyMemory := by
  intro i s
  refine ⟨fun h => ?_, fun h => ?_⟩
  · obtain ⟨hop, hrun⟩ := inc_rows h
    exact ⟨hop, by rw [hrun.exec_eq hop (by decide), increment_eq]⟩
  · obtain ⟨hop, hrun⟩ := dec_rows h
    exact ⟨hop, by rw [hrun.exec_eq hop (by decide), decrement_eq]⟩

/-! ### INX, INY, DEX and DEY -/

theorem inx_row : RunsAsImplied (fun s => loadX (s.x + 1) s) .inx := ⟨rfl, fun _ => rfl⟩
theorem iny_row : RunsAsImplied (fun s => loadY (s.y + 1) s) .iny := ⟨rfl, fun _ => rfl⟩
theorem dex_row : RunsAsImplied (fun s => loadX (s.x - 1) s) .dex := ⟨rfl, fun _ => rfl⟩
theorem dey_row : RunsAsImplied (fun s => loadY (s.y - 1) s) .dey := ⟨rfl, fun _ => rfl⟩

/-- Settles O18: each is a load of the register with its neighbour, in the state with PC and cycles moved on. -/
theorem indexRegistersCount : Obligations.IndexRegistersCount := by
  refine ⟨rfl, fun s => ⟨?_, ?_, ?_, ?_⟩⟩
  · rw [inx_row.exec_eq fun _ _ _ => rfl, loadX_eq, add_one_eq_ofNat]; rfl
  · rw [iny_row.exec_eq fun _ _ _ => rfl, loadY_eq, add_one_eq_ofNat]; rfl
  · rw [dex_row.exec_eq fun _ _ _ => rfl, loadX_eq, sub_one_eq_ofNat]; rfl
  · rw [dey_row.exec_eq fun _ _ _ => rfl, loadY_eq, sub_one_eq_ofNat]; rfl

end Sys2Proof.Proofs.CompareAndCount
end

section
/-! PROOFS. Logic, bit test, shifts and rotates (43_logic_shift.md R200 to R208). Each rule is first put in the terms of the
statements, a shift as the arithmetic of one bit position; each row of a mnemonic then has a shape of Operands or Modify with that
rule. -/

namespace Sys2Proof.Proofs.LogicAndShift

open Sys2Proof Sys2Proof.Machine Sys2Proof.Claims Sys2Proof.Proofs.Operands Sys2Proof.Proofs.Modify
open Sys2Proof.Proofs.LoadStore Sys2Proof.Proofs.CompareAndCount

/-! ### Bits of a byte and shifts by one position as numbers -/

theorem getLsbD_eq_decide (v : Byte) (k : Nat) : v.getLsbD k = decide (v.toNat / 2 ^ k % 2 = 1) :=
  Nat.testBit_eq_decide_div_mod_eq

theorem bit0_eq_decide (v : Byte) : v.getLsbD 0 = decide (v.toNat % 2 = 1) := by
  rw [getLsbD_eq_decide, pow_zero, Nat.div_one]

theorem bit6_eq_decide (v : Byte) : v.getLsbD 6 = decide (64 ≤ v.toNat % 128) := by
  rw [getLsbD_eq_decide, decide_eq_decide]
  omega

theorem bit7_eq_decide (v : Byte) : v.getLsbD 7 = decide (128 ≤ v.toNat) := by
  have hv := v.isLt
  rw [getLsbD_eq_decide, decide_eq_decide]
  omega

theorem shiftLeft_one_eq_ofNat (v : Byte) : v <<< 1 = BitVec.ofNat 8 (2 * v.toNat) := by
  refine BitVec.eq_of_toNat_eq ?_
  rw [BitVec.toNat_shiftLeft, Nat.shiftLeft_eq, BitVec.toNat_ofNat, pow_one, Nat.mul_comm]

theorem shiftRight_one_eq_ofNat (v : Byte) : v >>> 1 = BitVec.ofNat 8 (v.toNat / 2) := by
  have hv := v.isLt
  refine BitVec.eq_of_toNat_eq ?_
  rw [BitVec.toNat_ushiftRight, Nat.shiftRight_eq_div_pow, BitVec.toNat_ofNat]
  omega

/-- The carry comes in at bit 0, which the shift left empty (R207). -/
theorem shiftLeft_or_carry_eq_ofNat (v : Byte) (c : Bool) :
    v <<< 1 ||| (BitVec.ofBool c).setWidth 8 = BitVec.ofNat 8 (2 * v.toNat + c.toNat) := by
  have hdisjoint : v <<< 1 &&& (BitVec.ofBool c).setWidth 8 = 0#8 := by
    ext k hk
    cases k <;> simp
  rw [← BitVec.add_eq_or_of_and_eq_zero _ _ hdisjoint, shiftLeft_one_eq_ofNat, BitVec.ofNat_add]
  cases c <;> rfl

/-- The carry comes in at bit 7, which the shift left empty (R208). -/
theorem shiftRight_or_carry_eq_ofNat (v : Byte) (c : Bool) :
    v >>> 1 ||| (BitVec.ofBool c).setWidth 8 <<< 7 = BitVec.ofNat 8 (v.toNat / 2 + 128 * c.toNat) := by
  have hdisjoint : v >>> 1 &&& (BitVec.ofBool c).setWidth 8 <<< 7 = 0#8 := by
    ext k hk
    rcases Nat.lt_or_ge k 7 with h7 | h7
    · simp [h7]
    · simp [BitVec.getLsbD_of_ge v (1 + k) (by omega)]
  rw [← BitVec.add_eq_or_of_and_eq_zero _ _ hdisjoint, shiftRight_one_eq_ofNat, BitVec.ofNat_add]
  cases c <;> rfl

/-! ### The rules of R201 to R208 -/

theorem andA_eq (v : Byte) (s : State) : andA v s = { s with a := s.a &&& v, flags := zn (s.a &&& v) s.flags } :=
  loadA_eq _ s

theorem orA_eq (v : Byte) (s : State) : orA v s = { s with a := s.a ||| v, flags := zn (s.a ||| v) s.flags } :=
  loadA_eq _ s

theorem xorA_eq (v : Byte) (s : State) : xorA v s = { s with a := s.a ^^^ v, flags := zn (s.a ^^^ v) s.flags } :=
  loadA_eq _ s

theorem bitTest_eq (a v : Byte) (f : Flags) :
    f.bitTest a v = { f with
      z := decide ((a &&& v).toNat = 0)
      n := decide (128 ≤ v.toNat)
      v := decide (64 ≤ v.toNat % 128) } := by
  have hz : ((a &&& v) == 0) = decide ((a &&& v).toNat = 0) := (congrArg Flags.z (setZN_eq_zn (a &&& v) f) :)
  rw [Flags.bitTest, hz, bit7_eq_decide, bit6_eq_decide]

theorem asl_eq (v : Byte) (f : Flags) :
    asl v f = (BitVec.ofNat 8 (2 * v.toNat), czn (decide (128 ≤ v.toNat)) (BitVec.ofNat 8 (2 * v.toNat)) f) := by
  rw [asl, setZN_eq_zn, shiftLeft_one_eq_ofNat, bit7_eq_decide]
  rfl

theorem lsr_eq (v : Byte) (f : Flags) :
    lsr v f = (BitVec.ofNat 8 (v.toNat / 2), czn (decide (v.toNat % 2 = 1)) (BitVec.ofNat 8 (v.toNat / 2)) f) := by
  rw [lsr, setZN_eq_zn, shiftRight_one_eq_ofNat, bit0_eq_decide]
  rfl

theorem rol_eq (v : Byte) (f : Flags) :
    rol v f = (BitVec.ofNat 8 (2 * v.toNat + f.c.toNat),
      czn (decide (128 ≤ v.toNat)) (BitVec.ofNat 8 (2 * v.toNat + f.c.toNat)) f) := by
  rw [rol, setZN_eq_zn, shiftLeft_or_carry_eq_ofNat, bit7_eq_decide]
  rfl

theorem ror_eq (v : Byte) (f : Flags) :
    ror v f = (BitVec.ofNat 8 (v.toNat / 2 + 128 * f.c.toNat),
      czn (decide (v.toNat % 2 = 1)) (BitVec.ofNat 8 (v.toNat / 2 + 128 * f.c.toNat)) f) := by
  rw [ror, setZN_eq_zn, shiftRight_or_carry_eq_ofNat, bit0_eq_decide]
  rfl

/-! ### Logic -/

theorem and_rows {i : Instr} (h : i.mnemonic = .and) :
    i.opcode ∈ [0x29, 0x25, 0x35, 0x2D, 0x3D, 0x39, 0x21, 0x31] ∧ RunsAsRead andA i := by
  match i, h with
  | .andImm v, _ => exact ⟨by simp [Instr.opcode], .imm v, rfl, fun _ => rfl⟩
  | .andZp b, _ => exact ⟨by simp [Instr.opcode], .mem (.zp b), rfl, fun _ => rfl⟩
  | .andZpx b, _ => exact ⟨by simp [Instr.opcode], .mem (.zpx b), rfl, fun _ => rfl⟩
  | .andAbs w, _ => exact ⟨by simp [Instr.opcode], .mem (.abs w), rfl, fun _ => rfl⟩
  | .andAbx w, _ => exact ⟨by simp [Instr.opcode], .mem (.abx w), rfl, fun _ => rfl⟩
  | .andAby w, _ => exact ⟨by simp [Instr.opcode], .mem (.aby w), rfl, fun _ => rfl⟩
  | .andIzx b, _ => exact ⟨by simp [Instr.opcode], .mem (.izx b), rfl, fun _ => rfl⟩
  | .andIzy b, _ => exact ⟨by simp [Instr.opcode], .mem (.izy b), rfl, fun _ => rfl⟩

theorem ora_rows {i : Instr} (h : i.mnemonic = .ora) :
    i.opcode ∈ [0x09, 0x05, 0x15, 0x0D, 0x1D, 0x19, 0x01, 0x11] ∧ RunsAsRead orA i := by
  match i, h with
  | .oraImm v, _ => exact ⟨by simp [Instr.opcode], .imm v, rfl, fun _ => rfl⟩
  | .oraZp b, _ => exact ⟨by simp [Instr.opcode], .mem (.zp b), rfl, fun _ => rfl⟩
  | .oraZpx b, _ => exact ⟨by simp [Instr.opcode], .mem (.zpx b), rfl, fun _ => rfl⟩
  | .oraAbs w, _ => exact ⟨by simp [Instr.opcode], .mem (.abs w), rfl, fun _ => rfl⟩
  | .oraAbx w, _ => exact ⟨by simp [Instr.opcode], .mem (.abx w), rfl, fun _ => rfl⟩
  | .oraAby w, _ => exact ⟨by simp [Instr.opcode], .mem (.aby w), rfl, fun _ => rfl⟩
  | .oraIzx b, _ => exact ⟨by simp [Instr.opcode], .mem (.izx b), rfl, fun _ => rfl⟩
  | .oraIzy b, _ => exact ⟨by simp [Instr.opcode], .mem (.izy b), rfl, fun _ => rfl⟩

theorem eor_rows {i : Instr} (h : i.mnemonic = .eor) :
    i.opcode ∈ [0x49, 0x45, 0x55, 0x4D, 0x5D, 0x59, 0x41, 0x51] ∧ RunsAsRead xorA i := by
  match i, h with
  | .eorImm v, _ => exact ⟨by simp [Instr.opcode], .imm v, rfl, fun _ => rfl⟩
  | .eorZp b, _ => exact ⟨by simp [Instr.opcode], .mem (.zp b), rfl, fun _ => rfl⟩
  | .eorZpx b, _ => exact ⟨by simp [Instr.opcode], .mem (.zpx b), rfl, fun _ => rfl⟩
  | .eorAbs w, _ => exact ⟨by simp [Instr.opcode], .mem (.abs w), rfl, fun _ => rfl⟩
  | .eorAbx w, _ => exact ⟨by simp [Instr.opcode], .mem (.abx w), rfl, fun _ => rfl⟩
  | .eorAby w, _ => exact ⟨by simp [Instr.opcode], .mem (.aby w), rfl, fun _ => rfl⟩
  | .eorIzx b, _ => exact ⟨by simp [Instr.opcode], .mem (.izx b), rfl, fun _ => rfl⟩
  | .eorIzy b, _ => exact ⟨by simp [Instr.opcode], .mem (.izy b), rfl, fun _ => rfl⟩

/-- Settles O19: the mnemonic's rule, applied to the operand in the state that its one read leaves; the read leaves A and the
flags that the rule looks at. -/
theorem logicWorksBitByBit : Obligations.LogicWorksBitByBit := by
  intro i s
  refine ⟨fun h => ?_, fun h => ?_, fun h => ?_⟩
  · obtain ⟨hop, hrun⟩ := and_rows h
    exact ⟨hop, by rw [hrun.exec_eq h (by decide) fun _ _ _ _ => rfl, andA_eq, afterRead_a, afterRead_flags]⟩
  · obtain ⟨hop, hrun⟩ := ora_rows h
    exact ⟨hop, by rw [hrun.exec_eq h (by decide) fun _ _ _ _ => rfl, orA_eq, afterRead_a, afterRead_flags]⟩
  · obtain ⟨hop, hrun⟩ := eor_rows h
    exact ⟨hop, by rw [hrun.exec_eq h (by decide) fun _ _ _ _ => rfl, xorA_eq, afterRead_a, afterRead_flags]⟩

/-! ### Bit test -/

theorem bit_rows {i : Instr} (h : i.mnemonic = .bit) : i.opcode ∈ [0x24, 0x2C] ∧ RunsAsRead bitTestA i := by
  match i, h with
  | .bitZp b, _ => exact ⟨by simp [Instr.opcode], .mem (.zp b), rfl, fun _ => rfl⟩
  | .bitAbs w, _ => exact ⟨by simp [Instr.opcode], .mem (.abs w), rfl, fun _ => rfl⟩

/-- Settles O20: the rule of R204 writes three flags, from the operand and the A that its one read leaves. -/
theorem bitTestsTheOperand : Obligations.BitTestsTheOperand := by
  intro i s h
  obtain ⟨hop, hrun⟩ := bit_rows h
  refine ⟨hop, (hrun.exec_eq h (by decide) (fun _ _ _ _ => rfl) s).trans ?_⟩
  simp only [bitTestA, bitTest_eq, afterRead_flags, afterRead_a]

/-! ### Shifts and rotates -/

theorem asl_rows {i : Instr} (h : i.mnemonic = .asl) :
    i.opcode ∈ [0x0A, 0x06, 0x16, 0x0E, 0x1E] ∧ RunsAsModify asl i := by
  match i, h with
  | .aslAcc, _ => exact ⟨by simp [Instr.opcode], .acc, rfl, fun _ => rfl⟩
  | .aslZp b, _ => exact ⟨by simp [Instr.opcode], .mem (.zp b), rfl, fun _ => rfl⟩
  | .aslZpx b, _ => exact ⟨by simp [Instr.opcode], .mem (.zpx b), rfl, fun _ => rfl⟩
  | .aslAbs w, _ => exact ⟨by simp [Instr.opcode], .mem (.abs w), rfl, fun _ => rfl⟩
  | .aslAbx w, _ => exact ⟨by simp [Instr.opcode], .mem (.abx w), rfl, fun _ => rfl⟩

theorem lsr_rows {i : Instr} (h : i.mnemonic = .lsr) :
    i.opcode ∈ [0x4A, 0x46, 0x56, 0x4E, 0x5E] ∧ RunsAsModify lsr i := by
  match i, h with
  | .lsrAcc, _ => exact ⟨by simp [Instr.opcode], .acc, rfl, fun _ => rfl⟩
  | .lsrZp b, _ => exact ⟨by simp [Instr.opcode], .mem (.zp b), rfl, fun _ => rfl⟩
  | .lsrZpx b, _ => exact ⟨by simp [Instr.opcode], .mem (.zpx b), rfl, fun _ => rfl⟩
  | .lsrAbs w, _ => exact ⟨by simp [Instr.opcode], .mem (.abs w), rfl, fun _ => rfl⟩
  | .lsrAbx w, _ => exact ⟨by simp [Instr.opcode], .mem (.abx w), rfl, fun _ => rfl⟩

theorem rol_rows {i : Instr} (h : i.mnemonic = .rol) :
    i.opcode ∈ [0x2A, 0x26, 0x36, 0x2E, 0x3E] ∧ RunsAsModify rol i := by
  match i, h with
  | .rolAcc, _ => exact ⟨by simp [Instr.opcode], .acc, rfl, fun _ => rfl⟩
  | .rolZp b, _ => exact ⟨by simp [Instr.opcode], .mem (.zp b), rfl, fun _ => rfl⟩
  | .rolZpx b, _ => exact ⟨by simp [Instr.opcode], .mem (.zpx b), rfl, fun _ => rfl⟩
  | .rolAbs w, _ => exact ⟨by simp [Instr.opcode], .mem (.abs w), rfl, fun _ => rfl⟩
  | .rolAbx w, _ => exact ⟨by simp [Instr.opcode], .mem (.abx w), rfl, fun _ => rfl⟩

theorem ror_rows {i : Instr} (h : i.mnemonic = .ror) :
    i.opcode ∈ [0x6A, 0x66, 0x76, 0x6E, 0x7E] ∧ RunsAsModify ror i := by
  match i, h with
  | .rorAcc, _ => exact ⟨by simp [Instr.opcode], .acc, rfl, fun _ => rfl⟩
  | .rorZp b, _ => exact ⟨by simp [Instr.opcode], .mem (.zp b), rfl, fun _ => rfl⟩
  | .rorZpx b, _ => exact ⟨by simp [Instr.opcode], .mem (.zpx b), rfl, fun _ => rfl⟩
  | .rorAbs w, _ => exact ⟨by simp [Instr.opcode], .mem (.abs w), rfl, fun _ => rfl⟩
  | .rorAbx w, _ => exact ⟨by simp [Instr.opcode], .mem (.abx w), rfl, fun _ => rfl⟩

/-- Settles O21: the read-modify-write shape with the rule of R205 to R208; none of the opcodes listed pays for a page cross. -/
theorem shiftsMoveOneBit : Obligations.ShiftsMoveOneBit := by
  intro i s
  refine ⟨fun h => ?_, fun h => ?_, fun h => ?_, fun h => ?_⟩
  · obtain ⟨hop, hrun⟩ := asl_rows h
    exact ⟨hop, by rw [hrun.exec_eq hop (by decide), asl_eq]⟩
  · obtain ⟨hop, hrun⟩ := lsr_rows h
    exact ⟨hop, by rw [hrun.exec_eq hop (by decide), lsr_eq]⟩
  · obtain ⟨hop, hrun⟩ := rol_rows h
    exact ⟨hop, by rw [hrun.exec_eq hop (by decide), rol_eq]⟩
  · obtain ⟨hop, hrun⟩ := ror_rows h
    exact ⟨hop, by rw [hrun.exec_eq hop (by decide), ror_eq]⟩

end Sys2Proof.Proofs.LogicAndShift
end

section
/-! PROOFS. Flag instructions, NOP and stack instructions (44_flags_stack_nop.md R220 to R232). A push and a pop are first put in
the terms of the statements, the latter after any number of pops; each row of the table then runs as an implied instruction. -/

namespace Sys2Proof.Proofs.FlagStack

open Sys2Proof Sys2Proof.Machine Sys2Proof.Claims Sys2Proof.Proofs.Operands Sys2Proof.Proofs.LoadStore

/-! ### Pushes and pops -/

theorem stackAddr_eq_stackCell (sp : Byte) : stackAddr sp = stackCell sp := eq_ofNat_of_toNat_eq (stackAddr_toNat sp)

theorem pushed_cons (v : Byte) (vs : List Byte) (s : State) : pushed (v :: vs) s = pushed vs (push v s) := by
  rw [push, stackAddr_eq_stackCell]
  rfl

/-- SP moves up by one for each pop, wrapping inside the stack page (R32). -/
theorem pulled_sp (n : Nat) (s : State) : (pulled n s).sp = s.sp + BitVec.ofNat 8 n := by
  induction n with
  | zero => exact (BitVec.add_zero s.sp).symm
  | succ n ih =>
    rw [BitVec.ofNat_add, ← BitVec.add_assoc, ← ih]
    rfl

/-- One more pop after `n` pops (R32). -/
theorem pop_pulled (n : Nat) (s : State) : pop (pulled n s) = (popped s (n + 1), pulled (n + 1) s) := by
  have hsp : (pulled n s).sp + 1 = s.sp + BitVec.ofNat 8 (n + 1) := pulled_sp (n + 1) s
  rw [pop_eq, stackAddr_eq_stackCell, popped, ← hsp]
  rfl

theorem pop_eq_pulled (s : State) : pop s = (popped s 1, pulled 1 s) := pop_pulled 0 s

/-! ### The rules of R230 and R232 -/

theorem pullA_eq (s : State) : pullA s = { pulled 1 s with a := popped s 1, flags := zn (popped s 1) s.flags } := by
  rw [pullA, pop_eq_pulled]
  exact loadA_eq _ _

theorem pullStatus_eq (s : State) : pullStatus s = { pulled 1 s with flags := Flags.unpack (popped s 1) } := by
  rw [pullStatus, pop_eq_pulled]

/-! ### Flag instructions and NOP -/

theorem clc_row : RunsAsImplied (fun s => { s with flags.c := false }) .clc := ⟨rfl, fun _ => rfl⟩
theorem sec_row : RunsAsImplied (fun s => { s with flags.c := true }) .sec := ⟨rfl, fun _ => rfl⟩
theorem cli_row : RunsAsImplied (fun s => { s with flags.i := false }) .cli := ⟨rfl, fun _ => rfl⟩
theorem sei_row : RunsAsImplied (fun s => { s with flags.i := true }) .sei := ⟨rfl, fun _ => rfl⟩
theorem cld_row : RunsAsImplied (fun s => { s with flags.d := false }) .cld := ⟨rfl, fun _ => rfl⟩
theorem sed_row : RunsAsImplied (fun s => { s with flags.d := true }) .sed := ⟨rfl, fun _ => rfl⟩
theorem clv_row : RunsAsImplied (fun s => { s with flags.v := false }) .clv := ⟨rfl, fun _ => rfl⟩
theorem nop_row : RunsAsImplied (fun s => s) .nop := ⟨rfl, fun _ => rfl⟩

/-- Settles O22: each is the write of its one flag, NOP the empty rule, in the state with PC and cycles moved on. -/
theorem flagInstructionsWriteOneFlag : Obligations.FlagInstructionsWriteOneFlag := by
  refine ⟨rfl, fun s => ⟨?_, ?_, ?_, ?_, ?_, ?_, ?_, ?_⟩⟩
  · exact clc_row.exec_eq (fun _ _ _ => rfl) s
  · exact sec_row.exec_eq (fun _ _ _ => rfl) s
  · exact cli_row.exec_eq (fun _ _ _ => rfl) s
  · exact sei_row.exec_eq (fun _ _ _ => rfl) s
  · exact cld_row.exec_eq (fun _ _ _ => rfl) s
  · exact sed_row.exec_eq (fun _ _ _ => rfl) s
  · exact clv_row.exec_eq (fun _ _ _ => rfl) s
  · exact nop_row.exec_eq (fun _ _ _ => rfl) s

/-! ### Stack instructions -/

theorem pha_row : RunsAsImplied (fun s => push s.a s) .pha := ⟨rfl, fun _ => rfl⟩
theorem php_row : RunsAsImplied (fun s => push (s.flags.pack true) s) .php := ⟨rfl, fun _ => rfl⟩
theorem pla_row : RunsAsImplied pullA .pla := ⟨rfl, fun _ => rfl⟩
theorem plp_row : RunsAsImplied pullStatus .plp := ⟨rfl, fun _ => rfl⟩

/-- Settles O24: each is one push, of A or of the status byte, in the state with PC and cycles moved on. -/
theorem pushesWriteTheStackCell : Obligations.PushesWriteTheStackCell := by
  refine ⟨rfl, rfl, fun s => ⟨?_, ?_⟩⟩
  · rw [pushed_cons]; exact pha_row.exec_eq (fun _ _ _ => rfl) s
  · rw [pushed_cons]; exact php_row.exec_eq (fun _ _ _ => rfl) s

/-- Settles O25: each is one pop and the rule's writes of the popped byte, and the stack cells that R302 (c) makes RAM do not
notice a read (`pop_bus`). -/
theorem pullsReadTheStackCell : Obligations.PullsReadTheStackCell := by
  refine ⟨rfl, rfl, fun s => ⟨?_, ?_, fun hr => ?_⟩⟩
  · rw [pla_row.exec_eq fun _ _ _ => rfl, pullA_eq]; rfl
  · rw [plp_row.exec_eq fun _ _ _ => rfl, pullStatus_eq]; rfl
  · have hbus := pop_bus s hr
    rwa [pop_eq_pulled] at hbus

end Sys2Proof.Proofs.FlagStack
end

section
/-! PROOFS. Branches, jumps, subroutines, BRK and RTI (45_control_flow.md R240 to R256). The branch, the indirect jump and the
rules of RTS, BRK and RTI are first put in the terms of the statements; each instruction is then its rule with PC and cycles
moved on. -/

namespace Sys2Proof.Proofs.ControlFlow

open Sys2Proof Sys2Proof.Machine Sys2Proof.Claims Sys2Proof.Proofs.Operands Sys2Proof.Proofs.FlagStack

/-! ### Branches -/

/-- The branch algorithm in plain arithmetic: `pcn` and the target modulo 65536, and their pages compared as numbers (R240,
R249). -/
theorem branch_eq_branched (i : Instr) (cond : Bool) (rel : Byte) (s : State) :
    branch i.opcode cond rel s = branched i cond rel s := by
  have hpcn : (s.pc + 2).toNat = (s.pc.toNat + 2) % 65536 := BitVec.toNat_add s.pc 2
  have htarget := add_sext16_toNat (s.pc + 2) rel
  rw [hpcn] at htarget
  cases cond with
  | false => rw [branched, ← eq_ofNat_of_toNat_eq hpcn]; rfl
  | true =>
    have hpage := samePage_iff (s.pc + 2) (s.pc + 2 + sext16 rel)
    rw [htarget, hpcn] at hpage
    simp only [branched, ← eq_ofNat_of_toNat_eq htarget, ← hpage, ite_true, Nat.add_assoc]
    rfl

/-- Settles O28: each row of the table is the branch algorithm on its flag. -/
theorem branchesTestTheirFlag : Obligations.BranchesTestTheirFlag := by
  refine fun r s => ⟨rfl, ?_, ?_, ?_, ?_, ?_, ?_, ?_, ?_⟩
  all_goals
    rw [← branch_eq_branched]
    rfl

/-! ### Jumps -/

/-- The two placements of the second pointer byte as numbers (R142). -/
theorem indHighAddr_eq_ofNat (wrap : Bool) (ptr : Word) :
    indHighAddr wrap ptr = BitVec.ofNat 16
      (if wrap then ptr.toNat / 256 * 256 + (ptr.toNat % 256 + 1) % 256 else (ptr.toNat + 1) % 65536) := by
  refine eq_ofNat_of_toNat_eq ?_
  cases wrap with
  | false => exact BitVec.toNat_add ptr 1
  | true =>
    have hlo : (lo ptr + 1).toNat = (ptr.toNat % 256 + 1) % 256 := by rw [BitVec.toNat_add, lo_toNat]; rfl
    exact (word_toNat _ _).trans (by rw [hi_toNat, hlo]; rfl)

/-- Two reads in a row, low byte first, in the terms of the statements: the number that they make, and what they leave (R57). -/
theorem readPair_eq_numberAt {l h : Word} {m n : Nat} (hl : l = BitVec.ofNat 16 m) (hh : h = BitVec.ofNat 16 n) (s : State) :
    (word ((s.look l).bus.read h) (s.bus.read l), s.looks [l, h]) =
      (BitVec.ofNat 16 (numberAt s m n), looks [m, n] s) := by
  rw [hl, hh, word_eq_ofNat]
  rfl

/-- Settles O29: PC is the operand, or what the two pointer reads make; the reads do not see the advance of PC. -/
theorem jumpsSetPc : Obligations.JumpsSetPc := by
  refine fun w s => ⟨rfl, rfl, rfl, ?_⟩
  have hind := (resolveInd_eq w s).trans
    (readPair_eq_numberAt (eq_ofNat_of_toNat_eq rfl) (indHighAddr_eq_ofNat s.cfg.jmpIndPageWrap w) s)
  exact congrArg (fun r : Word × State => Host.Outcome.next { r.2.charge 0x6C false with pc := r.1 }) hind

/-! ### Subroutines -/

/-- A 16-bit push is two pushes, high byte first (R32). -/
theorem push16_eq_pushed (w : Word) (s : State) : push16 w s = pushed [hi w, lo w] s := by
  rw [pushed_cons, pushed_cons]
  rfl

/-- A 16-bit pop after `n` pops takes the next two bytes, low byte first (R32). -/
theorem pop16_pulled (n : Nat) (s : State) :
    pop16 (pulled n s) =
      (BitVec.ofNat 16 ((popped s (n + 1)).toNat + 256 * (popped s (n + 2)).toNat), pulled (n + 2) s) := by
  rw [pop16_eq, pop_pulled, pop_pulled, word_eq_ofNat]

theorem returnFromSubroutine_eq (s : State) :
    returnFromSubroutine s =
      { pulled 2 s with pc := BitVec.ofNat 16 ((popped s 1).toNat + 256 * (popped s 2).toNat + 1) } := by
  rw [BitVec.ofNat_add]
  exact congrArg (fun p : Word × State => { p.2 with pc := p.1 + 1 }) (pop16_pulled 0 s)

theorem rts_row : RunsAsImplied returnFromSubroutine .rts := ⟨rfl, fun _ => rfl⟩

/-- Settles O30: the pushed address is `pcn - 1`, and pushes do not see the cycle count. -/
theorem jsrPushesTheReturnAddress : Obligations.JsrPushesTheReturnAddress := by
  refine fun w s => ⟨rfl, ?_⟩
  have hret : s.pc + 3 - 1 = s.pc + 2 := by bv_omega
  rw [← push16_eq_pushed, ← hret]
  rfl

/-- Settles O31: two pops, and one past the popped address. -/
theorem rtsPopsTheReturnAddress : Obligations.RtsPopsTheReturnAddress := by
  refine ⟨rfl, fun s => ?_⟩
  rw [rts_row.exec_eq fun _ _ _ => rfl, returnFromSubroutine_eq]
  rfl

/-! ### Handlers -/

/-- A vector read puts PC through the vector (R58). -/
theorem read16_eq_throughVector (vec : Word) (s : State) :
    { (read16 vec s).2 with pc := (read16 vec s).1 } = throughVector vec s := by
  have hnext : vec + 1 = BitVec.ofNat 16 (vec.toNat + 1) := by
    rw [BitVec.ofNat_add, BitVec.ofNat_toNat, BitVec.setWidth_eq]
    rfl
  exact congrArg (fun r : Word × State => { r.2 with pc := r.1 })
    ((read16_eq vec s).trans (readPair_eq_numberAt (eq_ofNat_of_toNat_eq rfl) hnext s))

/-- Entering a handler: three pushes, the flags, PC through the vector (R255, R279). -/
theorem enterHandler_eq_throughVector (ret : Word) (brk : Bool) (vec : Word) (s : State) :
    enterHandler ret brk vec s =
      { throughVector vec (pushed [hi ret, lo ret, s.flags.pack brk] s) with
        flags := { s.flags with b := s.flags.b || brk, i := true } } := by
  rw [enterHandler_eq, pushed_cons, pushed_cons, pushed_cons, ← read16_eq_throughVector]
  rfl

theorem pushed_charge (vs : List Byte) (s : State) (op : Byte) (k : Bool) :
    (pushed vs s).charge op k = pushed vs (s.charge op k) := by
  induction vs generalizing s with
  | nil => rfl
  | cons v vs ih => rw [pushed_cons, pushed_cons, ih]; rfl

theorem throughVector_charge (vec : Word) (s : State) (op : Byte) (k : Bool) :
    (throughVector vec s).charge op k = throughVector vec (s.charge op k) := rfl

/-- Entering a handler does not see the cycle count: neither the pushes nor the vector read do. -/
theorem enterHandler_charge (ret : Word) (brk : Bool) (vec : Word) (s : State) (op : Byte) (k : Bool) :
    (enterHandler ret brk vec s).charge op k = enterHandler ret brk vec (s.charge op k) := by
  rw [enterHandler_eq_throughVector, enterHandler_eq_throughVector]
  have hcharge := (throughVector_charge vec (pushed [hi ret, lo ret, s.flags.pack brk] s) op k).trans
    (congrArg (throughVector vec) (pushed_charge _ s op k))
  exact congrArg (fun u : State => { u with flags := { s.flags with b := s.flags.b || brk, i := true } }) hcharge

/-- Leaving a handler: three pops, the status byte first, and no increment (R256). -/
theorem leaveHandler_eq_pulled (s : State) :
    leaveHandler s = { pulled 3 s with
      flags := Flags.unpack (popped s 1)
      pc := BitVec.ofNat 16 ((popped s 2).toNat + 256 * (popped s 3).toNat) } := by
  rw [leaveHandler_eq, pop_eq_pulled, pop16_pulled]

theorem brk_row : RunsAsImplied (fun s => enterHandler (s.pc + 1) true s.cfg.vecIrq s) .brk := ⟨rfl, fun _ => rfl⟩
theorem rti_row : RunsAsImplied leaveHandler .rti := ⟨rfl, fun _ => rfl⟩

/-- Settles O33: BRK enters the handler with the address one past the byte after it, and a held B set whatever it was. -/
theorem brkEntersTheHandler : Obligations.BrkEntersTheHandler := by
  refine ⟨rfl, fun s => ?_⟩
  have hret : s.pc + 1 + 1 = s.pc + 2 := BitVec.add_assoc ..
  rw [brk_row.exec_eq fun t => enterHandler_charge (t.pc + 1) true t.cfg.vecIrq t, enterHandler_eq_throughVector,
    Bool.or_true, ← hret]
  rfl

/-- Settles O34: three pops, and the popped flags and address. -/
theorem rtiLeavesTheHandler : Obligations.RtiLeavesTheHandler := by
  refine ⟨rfl, fun s => ?_⟩
  rw [rti_row.exec_eq fun _ _ _ => rfl, leaveHandler_eq_pulled]
  rfl

end Sys2Proof.Proofs.ControlFlow
end

section
/-! PROOFS. The host's calls (20_memory.md R77, R78, 60_exceptions.md R275): what each leaves, the invariant they keep, and the
slice of the visible program ROM that `read_prg` answers. -/

namespace Sys2Proof.Proofs.HostCalls

open Sys2Proof Sys2Proof.Machine

/-! ### The visible program ROM -/

/-- The visible program ROM is its bytes, two banks of them (R72). -/
theorem visiblePrg_getElem? (b : Bus) (k : Nat) :
    b.visiblePrg[k]? = if k < 2 * prgPageSize then some (b.visibleByte k) else none := by
  rw [Bus.visiblePrg, List.getElem?_append, Memory.slice_length, Memory.slice_getElem?, Memory.slice_getElem?,
    Bus.visibleByte]
  by_cases hlower : k < prgPageSize
  · rw [if_pos hlower, if_pos hlower, if_pos (by omega), if_pos hlower]
  · have hupper : k - prgPageSize < prgPageSize ↔ k < 2 * prgPageSize := by omega
    rw [if_neg hlower, if_neg hlower]
    simp only [hupper]

theorem visiblePrg_length (b : Bus) : b.visiblePrg.length = 2 * prgPageSize := by
  rw [Bus.visiblePrg, List.length_append, Memory.slice_length, Memory.slice_length, Nat.two_mul]

/-- The bytes that `read_prg` collects are a slice of the visible program ROM, clipped at its end (R78). -/
theorem visibleFrom_eq_take_drop (b : Bus) (k n : Nat) : visibleFrom b k n = (b.visiblePrg.drop k).take n := by
  induction n generalizing k with
  | zero => rfl
  | succ n ih =>
    have hbyte := visiblePrg_getElem? b k
    rw [visibleFrom]
    by_cases hk : k < 2 * prgPageSize
    · rw [if_pos hk] at hbyte ⊢
      rw [List.drop_eq_getElem?_toList_append, hbyte, ih]
      rfl
    · rw [if_neg hk, List.drop_eq_nil_of_le (by rw [visiblePrg_length]; omega), List.take_nil]

theorem readPrg_eq_slice (s : State) {a : Word} (ha : 0x8000 ≤ a.toNat) (n : Nat) :
    s.readPrg a n = some ((s.bus.visiblePrg.drop (a.toNat - 0x8000)).take n) := by
  rw [State.readPrg, if_neg (by omega), visibleFrom_eq_take_drop]

/-! ### The invariant -/

/-- The invariant is about the bus and the fault record alone, so a call that keeps both good keeps it. -/
theorem inv_of_bus_wf {s t : State} (hs : s.Inv) (hbus : t.bus.wf) (hfault : t.fault = s.fault) : t.Inv :=
  ⟨hbus, hfault.trans hs.running⟩

/-- Settles O52: each call is the one update it names, and a bus access keeps a good bus good. -/
theorem hostCallsTouchOnlyTheirTarget : Obligations.HostCallsTouchOnlyTheirTarget := by
  refine fun s a v => ⟨rfl, rfl, rfl, rfl, rfl, fun hs => ⟨?irq, ?nmi, ?reset, ?read, ?write⟩⟩
  case irq | nmi | reset => exact inv_of_bus_wf hs hs.bus rfl
  case read => exact inv_of_bus_wf hs (Bus.afterRead_wf hs.bus a) rfl
  case write => exact inv_of_bus_wf hs (Bus.write_wf hs.bus s.cfg a v) rfl

end Sys2Proof.Proofs.HostCalls
end

section
/-! PROOFS. The stack where its page is RAM (10_state.md R31, R32, 70_reset_and_hazards.md R302 c): the first pop gives the byte
pushed last, the pops after it what they gave before that push, and reads in between make no difference. -/

namespace Sys2Proof.Proofs.StackRam

open Sys2Proof Sys2Proof.Machine Sys2Proof.Claims Sys2Proof.Proofs.Operands Sys2Proof.Proofs.FlagStack

/-- The stack works as RAM: the cells are in canonical form, and no two addresses of the stack page share one (R302 c). -/
structure StackIsRam (s : State) : Prop where
  canonical : s.bus.low.ram.wf
  ramPages : s.bus.low.ramPages

/-- Where the stack page is RAM depends on the map of `LowBus` alone. -/
theorem ramPages_of_map_eq {l m : LowBus} (hmap : m.map = l.map) (h : l.ramPages) : m.ramPages := by
  simpa only [LowBus.ramPages, LowBus.target, hmap] using h

theorem StackIsRam.push {s : State} (h : StackIsRam s) (v : Byte) : StackIsRam (push v s) where
  canonical := by
    rw [push_bus, Bus.write_low_eq, if_pos (stackAddr_low s.sp)]
    exact LowBus.write_ram_wf h.canonical _ _
  ramPages := ramPages_of_map_eq (push_keeps v s).map h.ramPages

theorem StackIsRam.look {s : State} (h : StackIsRam s) (k : Nat) : StackIsRam (look k s) where
  canonical := (Bus.afterRead_ram s.bus _).symm ▸ h.canonical
  ramPages := ramPages_of_map_eq (Bus.afterRead_map s.bus _) h.ramPages

/-- Pops have no side effect on the bus, however many (R32, R56). -/
theorem pulled_bus {s : State} (hr : s.bus.low.ramPages) (n : Nat) : (pulled n s).bus = s.bus := by
  induction n with
  | zero => rfl
  | succ n ih =>
    have hpop := pop_bus (pulled n s) (by rwa [ih])
    rwa [pop_pulled, ih] at hpop

/-- The byte that a later pop returns is already the one in its cell. -/
theorem popped_eq_read {s : State} (hr : s.bus.low.ramPages) (k : Nat) :
    popped s k = s.bus.read (stackAddr (s.sp + BitVec.ofNat 8 k)) := by
  rw [popped, pulled_bus hr, stackAddr_eq_stackCell]

/-- What pops return is a matter of the bus and of SP. -/
theorem popped_congr {s t : State} (hr : s.bus.low.ramPages) (hbus : t.bus = s.bus) (hsp : t.sp = s.sp) (k : Nat) :
    popped t k = popped s k := by
  rw [popped_eq_read (hbus ▸ hr), popped_eq_read hr, hbus, hsp]

/-- The first pop gives the byte pushed last (R31, R32). -/
theorem popped_push_one {s : State} (h : StackIsRam s) (v : Byte) : popped (push v s) 1 = v := by
  have hcell : s.sp - 1 + BitVec.ofNat 8 1 = s.sp := BitVec.sub_add_cancel s.sp 1
  rw [popped_eq_read (h.push v).ramPages, push_sp, hcell, push_read_stack v s h.canonical h.ramPages, if_pos rfl]

/-- Until SP has gone round the page, each later pop gives what it would have given one pop sooner without the push. -/
theorem popped_push_succ {s : State} (h : StackIsRam s) (v : Byte) {k : Nat} (hk : 1 ≤ k) (hk' : k < 256) :
    popped (push v s) (k + 1) = popped s k := by
  have hcell : s.sp - 1 + BitVec.ofNat 8 (k + 1) = s.sp + BitVec.ofNat 8 k := by
    rw [BitVec.ofNat_add]; bv_omega
  have hother : s.sp + BitVec.ofNat 8 k ≠ s.sp := by bv_omega
  rw [popped_eq_read (h.push v).ramPages, push_sp, hcell, push_read_stack v s h.canonical h.ramPages, if_neg hother,
    popped_eq_read h.ramPages]

theorem StackIsRam.looks {s : State} (h : StackIsRam s) (js : List Nat) : StackIsRam (looks js s) := by
  induction js generalizing s with
  | nil => exact h
  | cons j js ih => exact ih (h.look j)

/-- Reads anywhere, of devices too, leave what the pops return. -/
theorem popped_looks {s : State} (h : StackIsRam s) (js : List Nat) (k : Nat) : popped (looks js s) k = popped s k := by
  induction js generalizing s with
  | nil => rfl
  | cons j js ih =>
    have hlook : popped (look j s) k = popped s k := by
      rw [popped_eq_read (h.look j).ramPages, popped_eq_read h.ramPages]
      exact Bus.read_afterRead s.bus _ (.inr (h.ramPages.stack _))
    exact (ih (h.look j)).trans hlook

/-- What pops return is no matter of PC, the flags or the cycle count. -/
theorem popped_update {s : State} (hr : s.bus.low.ramPages) (pc : Word) (flags : Flags) (cycles k : Nat) :
    popped { s with pc, flags, cycles } k = popped s k :=
  popped_congr (t := { s with pc, flags, cycles }) hr rfl rfl k

/-- The pops of a handler's frame: the status byte pushed last, and the address pushed before it, low byte first. -/
theorem popped_push_push16 {s : State} (h : StackIsRam s) (ret : Word) (p : Byte) :
    popped (push p (push16 ret s)) 1 = p ∧
      word (popped (push p (push16 ret s)) 3) (popped (push p (push16 ret s)) 2) = ret := by
  have hhi : StackIsRam (push (hi ret) s) := h.push _
  have hlo : StackIsRam (push16 ret s) := hhi.push _
  have hlow : popped (push p (push16 ret s)) 2 = lo ret :=
    (popped_push_succ hlo p (by decide) (by decide)).trans (popped_push_one hhi _)
  have hhigh : popped (push p (push16 ret s)) 3 = hi ret := calc
    popped (push p (push16 ret s)) 3 = popped (push16 ret s) 2 := popped_push_succ hlo p (by decide) (by decide)
    _ = popped (push (hi ret) s) 1 := popped_push_succ hhi _ (by decide) (by decide)
    _ = hi ret := popped_push_one h _
  exact ⟨popped_push_one hlo p, by rw [hlow, hhigh, word_hi_lo]⟩

/-- What a handler finds on the stack, whichever way it was entered: the status byte with the pusher's bit 4, and the return
address behind it. The vector reads, the flags and the cycles that come after the pushes make no difference. -/
theorem popped_handler {s : State} (h : StackIsRam s) (vec ret : Word) (b4 : Bool) (flags : Flags) (cycles : Nat) :
    let t := { throughVector vec (pushed [hi ret, lo ret, s.flags.pack b4] s) with flags, cycles }
    (popped t 1).getLsbD 4 = b4 ∧ word (popped t 3) (popped t 2) = ret := by
  have hframe : StackIsRam (push (s.flags.pack b4) (push16 ret s)) := ((h.push _).push _).push _
  obtain ⟨hstatus, hret⟩ := popped_push_push16 h ret (s.flags.pack b4)
  have hpopped (k : Nat) :
      popped { throughVector vec (pushed [hi ret, lo ret, s.flags.pack b4] s) with flags, cycles } k =
        popped (push (s.flags.pack b4) (push16 ret s)) k := by
    rw [pushed_cons, pushed_cons, pushed_cons]
    exact (popped_update (hframe.looks _).ramPages _ flags cycles k).trans (popped_looks hframe _ k)
  dsimp only
  rw [hpopped, hpopped, hpopped, hstatus]
  exact ⟨Flags.pack_bit4 s.flags b4, hret⟩

end Sys2Proof.Proofs.StackRam
end

section
/-! PROOFS. What a step does when it runs no instruction to its end (60_exceptions.md R270 to R283): IRQ, NMI, RESET, and the
fault. Each guard of R280 is first turned into the step it selects; the sequence is then put in the terms of the statements. -/

namespace Sys2Proof.Proofs.Exceptions

open Sys2Proof Sys2Proof.Machine Sys2Proof.Claims
open Sys2Proof.Proofs.Operands Sys2Proof.Proofs.FlagStack Sys2Proof.Proofs.ControlFlow Sys2Proof.Proofs.StackRam
open Sys2Proof.Proofs.HostCalls

/-! ### The choice of what a step does -/

section Priority

variable {s : State} (hf : s.fault = none)
include hf

/-- RESET before everything (R280). -/
theorem step_of_reset (hr : s.resetPending = true) : step s = .next (resetSequence { s with busTrace := [] }) := by
  simp only [step, nextEvent, hf, hr, if_true]

/-- NMI before IRQ, masked or not (R280). -/
theorem step_of_nmi (hr : s.resetPending = false) (hn : s.nmiPending = true) :
    step s = .next (interruptEntry s.cfg.vecNmi { s with busTrace := [], nmiPending := false }) := by
  simp only [step, nextEvent, hf, hr, hn, Bool.false_eq_true, if_false, if_true]

/-- An unmasked IRQ before an instruction (R280). -/
theorem step_of_irq (hr : s.resetPending = false) (hn : s.nmiPending = false) (hi : s.irqPending = true)
    (hu : s.flags.i = false) :
    step s = .next (interruptEntry s.cfg.vecIrq { s with busTrace := [], irqPending := false }) := by
  simp only [step, nextEvent, hf, hr, hn, hi, hu, Bool.not_false, Bool.and_self, Bool.false_eq_true, if_false, if_true]

/-- With nothing to serve first, the instruction fetched (R280, R306). -/
theorem step_of_quiet (hq : s.quiet) :
    step s = exec (fetch { s with busTrace := [] }).1 (fetch { s with busTrace := [] }).2 := by
  obtain ⟨hr, hn, hi⟩ := hq
  simp only [step, nextEvent, hf, hr, hn, hi, Bool.false_eq_true, if_false]

end Priority

/-! ### The sequences -/

/-- The sequence of R279 in the terms of the statements: an interrupt leaves B, and costs 7 cycles. -/
theorem interruptEntry_eq_throughVector (vec : Word) (s : State) :
    interruptEntry vec s =
      { throughVector vec (pushed [hi s.pc, lo s.pc, s.flags.pack false] s) with
        flags := { s.flags with i := true }
        cycles := s.cycles + 7 } := by
  rw [interruptEntry, enterHandler_eq_throughVector, Bool.or_false]
  rfl

/-- Settles O35: the sequence, and its step, whose pushes and vector reads do not see the latch that it clears. -/
theorem irqStepEntersTheHandler : Obligations.IrqStepEntersTheHandler := by
  refine ⟨interruptEntry_eq_throughVector, fun s hf hr hn hi hu => ?_⟩
  rw [step_of_irq hf hr hn hi hu, interruptEntry_eq_throughVector]
  rfl

/-- Settles O36: as for IRQ, and neither I nor the IRQ latch is looked at. -/
theorem nmiStepEntersTheHandler : Obligations.NmiStepEntersTheHandler := by
  intro s hf hr hn
  rw [step_of_nmi hf hr hn, interruptEntry_eq_throughVector]
  rfl

/-- Settles O37: the sequence is the vector read and the values of R40, and has no write. -/
theorem resetStepReinitialises : Obligations.ResetStepReinitialises := by
  intro s hf hr
  rw [step_of_reset hf hr, ← read16_eq_throughVector]
  rfl

/-! ### What a handler finds on the stack -/

/-- Settles O40: the three entries push the status byte last, with bit 4 the pusher's (`Flags.pack_bit4`), and the two that
enter a handler push the address before it. -/
theorem stackedBit4TellsBrkFromIrq : Obligations.StackedBit4TellsBrkFromIrq := by
  intro s t vec hw hr
  have hs : StackIsRam s := ⟨hw, hr⟩
  refine ⟨?interrupt, fun hbrk => ?brk, fun hphp => ?php⟩
  case interrupt =>
    rw [interruptEntry_eq_throughVector]
    exact popped_handler hs vec s.pc false _ _
  case brk =>
    have hstepped : StackIsRam (stepped .brk 0 s) := ⟨hw, hr⟩
    cases (brkEntersTheHandler.2 s).symm.trans hbrk
    exact popped_handler hstepped s.cfg.vecIrq (s.pc + 2) true _ _
  case php =>
    have hstepped : StackIsRam (afterImplied .php s) := ⟨hw, hr⟩
    cases (php_row.exec_eq (fun _ _ _ => rfl) s).symm.trans hphp
    rw [popped_push_one hstepped, Flags.pack_bit4]

/-! ### The fault -/

/-- The listed bytes decode, in a row, to the instruction that faults (R108). -/
theorem map_decodeOp_unsupportedOpcodes :
    unsupportedOpcodes.map (decodeOp · 0 0) = unsupportedOpcodes.map Instr.unsupported := rfl

theorem decodeOp_of_unsupported {op : Byte} (h : op ∈ unsupportedOpcodes) : decodeOp op 0 0 = .unsupported op :=
  List.map_inj_left.1 map_decodeOp_unsupportedOpcodes op h

/-- The fetch of an unsupported byte is one access, to the byte itself (R103, R271). -/
theorem fetch_of_unsupported {s : State} (h : s.bus.read s.pc ∈ unsupportedOpcodes) :
    fetch s = (.unsupported (s.bus.read s.pc), s.look s.pc) := by
  simp only [fetch, memRead_eq, Laws.EncodingLength.width_unsupported _ h, decodeOp_of_unsupported h]

theorem byteAt_toNat (s : State) (w : Word) : byteAt s w.toNat = s.bus.read w := by
  rw [byteAt, ← eq_ofNat_of_toNat_eq rfl]

theorem look_toNat (s : State) (w : Word) : look w.toNat s = s.look w := by
  rw [look, byteAt_toNat, ← eq_ofNat_of_toNat_eq rfl]
  rfl

/-- Settles O41: `exec` of the one constructor is the fault, and a quiet step reaches it after the fetch of one byte. -/
theorem unsupportedOpcodeFaults : Obligations.UnsupportedOpcodeFaults := by
  refine ⟨fun _ _ => rfl, fun s hf hq hop => ?_⟩
  rw [byteAt_toNat] at hop ⊢
  rw [look_toNat, step_of_quiet hf hq, fetch_of_unsupported (s := { s with busTrace := [] }) hop]
  rfl

/-- Settles O42: a recorded fault is all that a step looks at, and a request leaves the record. -/
theorem faultIsSticky : Obligations.FaultIsSticky := by
  intro s op pc hf
  have hreset : s.requestReset.fault = some ⟨op, pc⟩ := hf
  exact ⟨step_faulted hf, rfl, rfl, rfl, step_faulted hreset, fun _ => rfl, fun _ _ => rfl,
    fun _ n ha => readPrg_eq_slice s ha n⟩

end Sys2Proof.Proofs.Exceptions
end

section
/-! PROOFS. Decoding and encoding undo each other (30_encoding.md R100 to R111). The encoder's bytes are the opcode and the
operand, the decoder's are the opcode and as many bytes as its width says; that the two agree is read off the table row by row. -/

namespace Sys2Proof.Proofs.Encoding

open Sys2Proof Sys2Proof.Machine Sys2Proof.Proofs.Exceptions

/-! ### The width of an operand -/

/-- No operand has more than two bytes (R102). -/
theorem operand_width_le (o : Operand) : o.width ≤ 2 := by
  cases o
  case imp | acc => exact Nat.zero_le 2
  case imm | rel => exact Nat.le_succ 1
  case ind => exact Nat.le_refl 2
  case mem m => cases m <;> simp [Operand.width, Operand.bytes, MemMode.bytes]

theorem operandWidth_cases (op : Byte) : operandWidth op = 0 ∨ operandWidth op = 1 ∨ operandWidth op = 2 := by
  have hle : operandWidth op ≤ 2 := operand_width_le _
  omega

/-- The operand bytes of a decoded instruction are the first ones after the opcode, as many as it has (R104). -/
theorem decodeOp_bytes (op b1 b2 : Byte) :
    (decodeOp op b1 b2).operand.bytes = [b1, b2].take (operandWidth op) := by
  rw [← decodeOp_width op b1 b2]
  unfold decodeOp
  dsimp only
  split <;>
    simp only [decodeRow0, decodeRow1, decodeRow2, decodeRow3, decodeRow4, decodeRow5, decodeRow6, decodeRow7,
      decodeRow8, decodeRow9, decodeRowA, decodeRowB, decodeRowC, decodeRowD, decodeRowE, decodeRowF] <;>
    split <;>
    simp [Instr.operand, Operand.width, Operand.bytes, MemMode.bytes]

/-! ### The bytes of R108 -/

/-- The table of R107 has no instruction at the listed bytes, and one at every other. -/
theorem mnemonic_decodeOp_zero :
    ∀ op : Byte, (decodeOp op 0 0).mnemonic = .unsupported ↔ op ∈ unsupportedOpcodes := by decide

theorem mnemonic_decodeOp (op b1 b2 : Byte) :
    (decodeOp op b1 b2).mnemonic = .unsupported ↔ op ∈ unsupportedOpcodes := by
  rw [decodeOp_mnemonic, mnemonic_decodeOp_zero]

theorem eq_unsupported_of_mnemonic {i : Instr} (h : i.mnemonic = .unsupported) : i = .unsupported i.opcode :=
  match i, h with
  | .unsupported _, _ => rfl

/-- Every operand value of an implemented instruction is legal (R109). -/
theorem wf_of_mnemonic {i : Instr} (h : i.mnemonic ≠ .unsupported) : i.wf = true := by
  cases i
  case unsupported => exact absurd rfl h
  all_goals rfl

theorem decodeOp_wf (op b1 b2 : Byte) : (decodeOp op b1 b2).wf = true := by
  by_cases h : (decodeOp op b1 b2).mnemonic = .unsupported
  · rw [eq_unsupported_of_mnemonic h, decodeOp_opcode]
    exact List.contains_iff_mem.2 ((mnemonic_decodeOp op b1 b2).1 h)
  · exact wf_of_mnemonic h

/-- Settles O4: the list of R108 is counted, and what a byte decodes to is read off the table by its mnemonic. -/
theorem unsupportedBytesAreTheListed105 : Obligations.UnsupportedBytesAreTheListed105 := by
  refine ⟨by decide, by decide, fun op b1 b2 => ⟨decodeOp_opcode op b1 b2, mnemonic_decodeOp op b1 b2, fun h => ?_⟩⟩
  have hi := eq_unsupported_of_mnemonic ((mnemonic_decodeOp op b1 b2).2 h)
  rwa [decodeOp_opcode] at hi

/-! ### Decoding what was encoded -/

/-- The row of the opcode column is the row that was encoded, and a word is put together from the bytes it was taken apart
into (R101, R104). -/
theorem decodeOp_encode {i : Instr} (h : i.wf = true) :
    decodeOp i.opcode (i.operand.bytes.getD 0 0) (i.operand.bytes.getD 1 0) = i := by
  cases i
  case unsupported op => exact decodeOp_of_unsupported (List.contains_iff_mem.1 h)
  all_goals
    simp [Instr.opcode, Instr.operand, Operand.bytes, MemMode.bytes, decodeOp, decodeRow0, decodeRow1, decodeRow2, decodeRow3,
      decodeRow4, decodeRow5, decodeRow6, decodeRow7, decodeRow8, decodeRow9, decodeRowA, decodeRowB, decodeRowC, decodeRowD,
      decodeRowE, decodeRowF]

/-- The decoder takes the opcode byte and as many bytes after it as the opcode's width, whatever follows (R102, R104). -/
theorem decode_cons_append {op : Byte} {bs : List Byte} (h : bs.length = operandWidth op) (rest : List Byte) :
    decode (op :: (bs ++ rest)) = .ok (decodeOp op (bs.getD 0 0) (bs.getD 1 0), rest) := by
  match bs, h with
  | [], h => simp [decode, ← h]
  | [b1], h => simp [decode, ← h]
  | [b1, b2], h => simp [decode, ← h]
  | _ :: _ :: _ :: _, h =>
    have hle : operandWidth op ≤ 2 := operand_width_le _
    simp only [List.length_cons] at h
    omega

/-- Settles O2: the bytes after the opcode are as many as its width (`decodeOp_width`), and they decode to the same operand. -/
theorem decodeOfEncodeIsTheInstruction : Obligations.DecodeOfEncodeIsTheInstruction := by
  intro i rest h
  have hi := decodeOp_encode h
  have hwidth : i.operand.bytes.length = operandWidth i.opcode := by
    rw [← decodeOp_width, hi]
    rfl
  rw [encode, List.cons_append, decode_cons_append hwidth, hi]

/-- Settles O1: all but the last are encodings (O2), and the last ends before its operand does. -/
theorem sampleWordsDecode : Obligations.SampleWordsDecode :=
  ⟨decodeOfEncodeIsTheInstruction .clc [] rfl, decodeOfEncodeIsTheInstruction .aslAcc [] rfl,
    decodeOfEncodeIsTheInstruction (.ldaImm 0x10) [] rfl, decodeOfEncodeIsTheInstruction (.ldxZpy 0x10) [] rfl,
    decodeOfEncodeIsTheInstruction (.ldaAbs 0x1234) [] rfl, decodeOfEncodeIsTheInstruction (.jmpInd 0x1234) [] rfl,
    decodeOfEncodeIsTheInstruction (.ldaIzy 0x10) [0xEA] rfl, decodeOfEncodeIsTheInstruction (.bne 0xF9) [] rfl,
    decodeOfEncodeIsTheInstruction (.unsupported 0x02) [0x55] rfl, rfl⟩

/-! ### Encoding what was decoded -/

/-- What decodes is an opcode byte with two operand bytes after it, of which the sequence holds as many as the width (R103). -/
theorem decode_ok_cases {bytes rest : List Byte} {i : Instr} (h : decode bytes = .ok (i, rest)) :
    ∃ op b1 b2, i = decodeOp op b1 b2 ∧ bytes = op :: ([b1, b2].take (operandWidth op) ++ rest) := by
  match bytes with
  | [] => cases h
  | op :: tail =>
    rcases operandWidth_cases op with hw | hw | hw
    · simp only [decode, hw, Except.ok.injEq, Prod.mk.injEq] at h
      obtain ⟨rfl, rfl⟩ := h
      exact ⟨op, 0, 0, rfl, by simp [hw]⟩
    · match tail with
      | [] => simp [decode, hw] at h
      | b1 :: tail =>
        simp only [decode, hw, Except.ok.injEq, Prod.mk.injEq] at h
        obtain ⟨rfl, rfl⟩ := h
        exact ⟨op, b1, 0, rfl, by simp [hw]⟩
    · match tail with
      | [] | [_] => simp [decode, hw] at h
      | b1 :: b2 :: tail =>
        simp only [decode, hw, Except.ok.injEq, Prod.mk.injEq] at h
        obtain ⟨rfl, rfl⟩ := h
        exact ⟨op, b1, b2, rfl, by simp [hw]⟩

theorem encode_decodeOp (op b1 b2 : Byte) : encode (decodeOp op b1 b2) = op :: [b1, b2].take (operandWidth op) := by
  rw [encode, decodeOp_opcode, decodeOp_bytes]

/-- Settles O3: the decoded instruction's opcode and operand bytes are the ones read, and three bytes are never too short. -/
theorem encodeOfDecodeIsTheBytes : Obligations.EncodeOfDecodeIsTheBytes := by
  refine ⟨fun bytes rest i h => ?_, fun bytes h => ?_⟩
  · obtain ⟨op, b1, b2, rfl, rfl⟩ := decode_ok_cases h
    exact ⟨decodeOp_wf op b1 b2, by rw [encode_decodeOp, List.cons_append]⟩
  · match bytes, h with
    | op :: b1 :: b2 :: tail, _ =>
      have hle : operandWidth op ≤ 2 := operand_width_le _
      have hlength : ([b1, b2].take (operandWidth op)).length = operandWidth op := by
        simpa [List.length_take] using hle
      have hsplit : op :: b1 :: b2 :: tail =
          op :: ([b1, b2].take (operandWidth op) ++ ([b1, b2].drop (operandWidth op) ++ tail)) := by
        rw [← List.append_assoc, List.take_append_drop]
        rfl
      exact ⟨_, _, hsplit ▸ decode_cons_append hlength _⟩

end Sys2Proof.Proofs.Encoding
end

section
/-! PROOFS. What every step keeps (60_exceptions.md R280, 70_reset_and_hazards.md R306). A step clears the record of accesses and
the latches it serves, and then does what `State.Keeps` says, whichever branch of R280 it takes; the invariant, the cartridge, the
latches and the devices' history are all read off that. -/

namespace Sys2Proof.Proofs.StepKeeps

open Sys2Proof Sys2Proof.Machine Sys2Proof.Proofs.HostCalls

/-- `s` with no accesses recorded and the requests gone that a step answers: every RESET and NMI, and an IRQ unless an NMI comes
first or I masks it (R280). -/
def served (s : State) : State :=
  { s with
    busTrace := []
    resetPending := false
    nmiPending := false
    irqPending := !s.resetPending && s.irqPending && (s.nmiPending || s.flags.i) }

/-- RESET clears the latches itself, all three (R278). -/
theorem resetSequence_served (s : State) : resetSequence { s with busTrace := [] } = resetSequence (served s) := rfl

/-- The RESET sequence keeps what every operation keeps, in a state whose latches are clear already. -/
theorem resetSequence_keeps {s : State} (hr : s.resetPending = false) (hn : s.nmiPending = false)
    (hi : s.irqPending = false) : s.Keeps (resetSequence s) := by
  rw [resetSequence_eq]
  have hlooks := looks_keeps [s.cfg.vecReset, s.cfg.vecReset + 1] s
  generalize s.looks [s.cfg.vecReset, s.cfg.vecReset + 1] = u at hlooks ⊢
  exact hlooks.trans (.of_same rfl rfl rfl (hr ▸ hlooks.resetPending).symm (hn ▸ hlooks.nmiPending).symm
    (hi ▸ hlooks.irqPending).symm rfl)

/-- Whichever branch of R280 a step takes, it keeps what every operation keeps, once the requests it answers are gone. -/
theorem step_keeps {s t : State} (h : step s = .next t) : s.fault = none ∧ (served s).Keeps t := by
  obtain ⟨hf, hbranch⟩ := step_cases h
  refine ⟨hf, ?_⟩
  obtain ⟨hr, rfl⟩ | ⟨hr, hn, rfl⟩ | ⟨hr, hn, hi, hu, rfl⟩ | ⟨hr, hn, hi, hexec⟩ := hbranch
  · rw [resetSequence_served]
    exact resetSequence_keeps rfl rfl (by simp [served, hr])
  · have hstart : served s = { s with busTrace := [], nmiPending := false } := by simp [served, hr, hn]
    exact hstart ▸ interruptEntry_keeps _ _
  · have hstart : served s = { s with busTrace := [], irqPending := false } := by simp [served, hr, hn, hu]
    exact hstart ▸ interruptEntry_keeps _ _
  · have hmasked : (s.irqPending && s.flags.i) = s.irqPending := by
      rw [Bool.and_eq_left_iff_imp]
      intro hp
      simpa [hp] using hi
    have hstart : served s = { s with busTrace := [] } := by simp [served, hr, hn, hmasked]
    obtain ⟨as, hfetch⟩ := fetch_state { s with busTrace := [] }
    rw [hstart]
    exact (hfetch ▸ looks_keeps as _).trans (exec_keeps hexec)

/-- Settles O55: a step keeps a good bus good and records no fault (`step_keeps`). -/
theorem everyStepKeepsTheInvariant : Obligations.EveryStepKeepsTheInvariant := by
  intro s t hs h
  obtain ⟨-, hkeeps⟩ := step_keeps h
  exact inv_of_bus_wf hs (hkeeps.bus hs.bus) hkeeps.fault

/-- Settles O56: field by field what `step_keeps` says; the record of accesses starts empty, so it is the step's own. -/
theorem noStepChangesTheCartridge : Obligations.NoStepChangesTheCartridge := by
  intro s t h
  obtain ⟨hf, hkeeps⟩ := step_keeps h
  obtain ⟨xs, htrace, hhistory⟩ := hkeeps.seen
  have hxs : t.busTrace = xs := htrace
  refine ⟨hkeeps.cart, hkeeps.cfg, hkeeps.map, hkeeps.fault.trans hf, hkeeps.resetPending, hkeeps.nmiPending,
    hkeeps.irqPending, ?_⟩
  rw [hxs]
  exact hhistory

/-- Settles O38: I keeps the request from being served, in this step and in what it leaves (O56). -/
theorem maskedIrqStaysPending : Obligations.MaskedIrqStaysPending := by
  intro s hr hn hi hu
  refine ⟨⟨hr, hn, by simp [hu]⟩, fun t h => ?_⟩
  obtain ⟨-, hkeeps⟩ := step_keeps h
  simpa [served, hr, hi, hu] using hkeeps.irqPending

/-! ### The reset state -/

/-- A machine powered on with a good cartridge and RAM in canonical form meets the invariant: `InitPages` names banks that exist,
and the vector reads keep a good bus good. -/
theorem powerOn_inv (cfg : Params) {cart : Cartridge} {low : LowBus} (hcart : cart.wf) (hcanonical : low.ram.wf)
    (hbelow : low.ram.within 0x8000) : (State.powerOn cfg cart low).Inv := by
  have hbus : Bus.wf { cart, pages := initPages cfg.initPages cart.prgRomPages, low } :=
    ⟨hcart, initPages_valid _ hcart.has_program_rom, hcanonical, hbelow⟩
  exact ⟨Bus.afterRead_wf (Bus.afterRead_wf hbus _) _, rfl⟩

/-- The blank image of log 7 is one that `load` accepts. -/
theorem blank_wf : Cartridge.blank.wf where
  header_length := rfl
  header_magic := rfl
  legacy_format := by decide
  reserved_zero := by decide
  has_program_rom := by decide
  prg_canonical := by decide
  prg_length := by decide
  chr_canonical := by decide
  chr_length := by decide
  trainer_present := by decide
  trainer_canonical := fun _ ht => nomatch ht

/-- Settles O54: the reset state is power-on with the blank image and empty flat RAM. -/
theorem resetMeetsTheInvariant : Obligations.ResetMeetsTheInvariant :=
  powerOn_inv referenceParams blank_wf (by decide) (by decide)

/-- Settles O53: the values are power-on's own, and the vector's window reads left the bus as it was. -/
theorem resetStateValues : Obligations.ResetStateValues :=
  ⟨rfl, rfl, rfl, rfl, rfl, rfl, rfl, rfl, rfl, rfl, rfl, rfl⟩

end Sys2Proof.Proofs.StepKeeps
end

section
/-! PROOFS. Fetch and the instruction that a step runs (30_encoding.md R103, 60_exceptions.md R270 to R273, R280): a quiet step
reads the bytes that the decoder would read, and only an unsupported byte, or a recorded fault, stops the machine. -/

namespace Sys2Proof.Proofs.Fetch

open Sys2Proof Sys2Proof.Machine Sys2Proof.Claims
open Sys2Proof.Proofs.Operands Sys2Proof.Proofs.Exceptions Sys2Proof.Proofs.Encoding

/-- Settles O6: `resolve_eq`, for every mode and state. -/
theorem memoryModesResolve : Obligations.MemoryModesResolve := resolve_eq

/-! ### The bytes of an instruction -/

theorem add_ofNat_eq (w : Word) (k : Nat) : w + BitVec.ofNat 16 k = BitVec.ofNat 16 (w.toNat + k) := by
  rw [BitVec.ofNat_add, BitVec.ofNat_toNat, BitVec.setWidth_eq]

/-- The fetch answers what its bytes decode to, after the reads of the opcode and of as many bytes as its width (R103). -/
theorem fetch_of_decode {s : State} {i : Instr} {rest : List Byte}
    (h : decode [byteAt s s.pc.toNat, byteAt (look s.pc.toNat s) (s.pc.toNat + 1),
      byteAt (looks [s.pc.toNat, s.pc.toNat + 1] s) (s.pc.toNat + 2)] = .ok (i, rest)) :
    fetch s = (i, looks ((List.range (1 + i.operand.width)).map (s.pc.toNat + ·)) s) := by
  have hone : s.pc + 1 = BitVec.ofNat 16 (s.pc.toNat + 1) := add_ofNat_eq s.pc 1
  have htwo : s.pc + 2 = BitVec.ofNat 16 (s.pc.toNat + 2) := add_ofNat_eq s.pc 2
  have hfirst : byteAt s s.pc.toNat = s.bus.read s.pc := byteAt_toNat s s.pc
  rw [hfirst] at h
  rcases operandWidth_cases (s.bus.read s.pc) with hw | hw | hw
  all_goals
    simp only [decode, hw, Except.ok.injEq, Prod.mk.injEq] at h
    obtain ⟨rfl, -⟩ := h
    simp only [fetch, memRead_eq, hw, decodeOp_width, hone, htwo, ← look_toNat s s.pc]
    rfl

/-- Settles O5: a quiet step is `exec` of the instruction fetched (`step_of_quiet`), and that is the one its bytes decode to. -/
theorem stepRunsTheDecodedInstruction : Obligations.StepRunsTheDecodedInstruction := by
  intro s i rest s₀ p hf hq h
  rw [step_of_quiet hf hq, fetch_of_decode (s := s₀) h]

/-! ### When a step stops -/

/-- The instruction fetched is one of the opcode byte at PC, whatever follows it (R103). -/
theorem fetch_instr (s : State) : ∃ b1 b2, (fetch s).1 = decodeOp (s.bus.read s.pc) b1 b2 := by
  unfold fetch
  simp only [memRead_eq]
  split
  · exact ⟨_, _, rfl⟩
  · exact ⟨_, _, rfl⟩
  · exact ⟨_, _, rfl⟩

/-- A recorded fault, and an unsupported byte with nothing to serve before it, stop the machine (R271, R273). -/
theorem step_faults {s : State} (h : s.fault ≠ none ∨ s.quiet ∧ byteAt s s.pc.toNat ∈ unsupportedOpcodes) :
    ∃ f, step s = .fault f := by
  cases hf : s.fault with
  | some r => exact ⟨_, step_faulted hf⟩
  | none =>
    obtain ⟨hq, hop⟩ := h.resolve_left (not_not_intro hf)
    exact ⟨_, unsupportedOpcodeFaults.2 s hf hq hop⟩

/-- Every other step answers a next state: a sequence always does, and so does every instruction but the unsupported one. -/
theorem step_answers {s : State} (hf : s.fault = none) (h : ¬ (s.quiet ∧ byteAt s s.pc.toNat ∈ unsupportedOpcodes)) :
    ∃ t, step s = .next t := by
  by_cases hq : s.quiet
  · rw [step_of_quiet hf hq]
    obtain ⟨b1, b2, hinstr⟩ := fetch_instr { s with busTrace := [] }
    refine (exec_next _ _).resolve_right fun ⟨op, hop⟩ => h ⟨hq, ?_⟩
    rw [byteAt_toNat, ← mnemonic_decodeOp _ b1 b2]
    exact congrArg Instr.mnemonic (hinstr.symm.trans hop)
  · cases hr : s.resetPending with
    | true => exact ⟨_, step_of_reset hf hr⟩
    | false =>
      cases hn : s.nmiPending with
      | true => exact ⟨_, step_of_nmi hf hr hn⟩
      | false =>
        have hirq : s.irqPending = true ∧ s.flags.i = false := by simpa [State.quiet, hr, hn] using hq
        exact ⟨_, step_of_irq hf hr hn hirq.1 hirq.2⟩

/-- Settles O43: a step that the two causes do not stop answers a next state (`step_answers`). -/
theorem stepFaultsOnlyOnUnsupportedBytes : Obligations.StepFaultsOnlyOnUnsupportedBytes := by
  intro s
  by_cases h : s.fault ≠ none ∨ s.quiet ∧ byteAt s s.pc.toNat ∈ unsupportedOpcodes
  · obtain ⟨f, hstep⟩ := step_faults h
    exact ⟨iff_of_true ⟨f, hstep⟩ h, fun r hr => by cases hstep.symm.trans hr⟩
  · obtain ⟨hf, hop⟩ := not_or.1 h
    obtain ⟨t, hstep⟩ := step_answers (not_not.1 hf) hop
    exact ⟨iff_of_false (fun ⟨f, hfault⟩ => by cases hstep.symm.trans hfault) h, fun r hr => by cases hstep.symm.trans hr⟩

end Sys2Proof.Proofs.Fetch
end

section
/-! PROOFS. ADC and SBC (42_arithmetic.md R181 to R184). The four results of the adder are first put in the plain arithmetic of the
statements, binary and with the digit corrections; on valid BCD operands the corrected results are those of decimal arithmetic. -/

namespace Sys2Proof.Proofs.AddSubtract

open Sys2Proof Sys2Proof.Machine Sys2Proof.Claims
open Sys2Proof.Proofs.Operands Sys2Proof.Proofs.CompareAndCount

/-! ### Rows and shape -/

theorem adc_rows {i : Instr} (h : i.mnemonic = .adc) :
    i.opcode ∈ [0x69, 0x65, 0x75, 0x6D, 0x7D, 0x79, 0x61, 0x71] ∧ RunsAsRead addToA i := by
  match i, h with
  | .adcImm v, _ => exact ⟨by simp [Instr.opcode], .imm v, rfl, fun _ => rfl⟩
  | .adcZp b, _ => exact ⟨by simp [Instr.opcode], .mem (.zp b), rfl, fun _ => rfl⟩
  | .adcZpx b, _ => exact ⟨by simp [Instr.opcode], .mem (.zpx b), rfl, fun _ => rfl⟩
  | .adcAbs w, _ => exact ⟨by simp [Instr.opcode], .mem (.abs w), rfl, fun _ => rfl⟩
  | .adcAbx w, _ => exact ⟨by simp [Instr.opcode], .mem (.abx w), rfl, fun _ => rfl⟩
  | .adcAby w, _ => exact ⟨by simp [Instr.opcode], .mem (.aby w), rfl, fun _ => rfl⟩
  | .adcIzx b, _ => exact ⟨by simp [Instr.opcode], .mem (.izx b), rfl, fun _ => rfl⟩
  | .adcIzy b, _ => exact ⟨by simp [Instr.opcode], .mem (.izy b), rfl, fun _ => rfl⟩

theorem sbc_rows {i : Instr} (h : i.mnemonic = .sbc) :
    i.opcode ∈ [0xE9, 0xE5, 0xF5, 0xED, 0xFD, 0xF9, 0xE1, 0xF1] ∧ RunsAsRead subFromA i := by
  match i, h with
  | .sbcImm v, _ => exact ⟨by simp [Instr.opcode], .imm v, rfl, fun _ => rfl⟩
  | .sbcZp b, _ => exact ⟨by simp [Instr.opcode], .mem (.zp b), rfl, fun _ => rfl⟩
  | .sbcZpx b, _ => exact ⟨by simp [Instr.opcode], .mem (.zpx b), rfl, fun _ => rfl⟩
  | .sbcAbs w, _ => exact ⟨by simp [Instr.opcode], .mem (.abs w), rfl, fun _ => rfl⟩
  | .sbcAbx w, _ => exact ⟨by simp [Instr.opcode], .mem (.abx w), rfl, fun _ => rfl⟩
  | .sbcAby w, _ => exact ⟨by simp [Instr.opcode], .mem (.aby w), rfl, fun _ => rfl⟩
  | .sbcIzx b, _ => exact ⟨by simp [Instr.opcode], .mem (.izx b), rfl, fun _ => rfl⟩
  | .sbcIzy b, _ => exact ⟨by simp [Instr.opcode], .mem (.izy b), rfl, fun _ => rfl⟩

theorem afterRead_cfg (i : Instr) (s : State) : (afterRead i s).cfg = s.cfg := looks_cfg _ s

/-- ADC in any mode writes A and the four flags of the adder's result. -/
theorem exec_adc {i : Instr} (h : i.mnemonic = .adc) (s : State) :
    exec i s = .next (writeAlu (adc s.cfg.decimal s.a (value i.operand s) s.flags) (afterRead i s)) := by
  rw [(adc_rows h).2.exec_eq h (by decide) fun _ _ _ _ => rfl, addToA, afterRead_cfg, afterRead_a, afterRead_flags]

/-- SBC in any mode writes A and the four flags of the subtracter's result. -/
theorem exec_sbc {i : Instr} (h : i.mnemonic = .sbc) (s : State) :
    exec i s = .next (writeAlu (sbc s.cfg.decimal s.a (value i.operand s) s.flags) (afterRead i s)) := by
  rw [(sbc_rows h).2.exec_eq h (by decide) fun _ _ _ _ => rfl, subFromA, afterRead_cfg, afterRead_a, afterRead_flags]

/-- What writing the result of an addition or subtraction leaves, with A and the four flags in sight. -/
theorem writeAlu_afterRead (r : AluResult) (i : Instr) (s : State) :
    writeAlu r (afterRead i s) =
      { afterRead i s with a := r.value, flags := { s.flags with c := r.c, z := r.z, v := r.v, n := r.n } } := by
  rw [writeAlu, afterRead_flags]
  rfl

/-! ### Bits, signs and residues as numbers -/

theorem testBit7_eq_decide (t : Nat) : t.testBit 7 = decide (128 ≤ t % 256) := by
  rw [Nat.testBit_eq_decide_div_mod_eq, decide_eq_decide]
  omega

/-- The value of a byte read as signed, without a condition on its sign bit. -/
theorem toInt_eq (b : Byte) : b.toInt = if 128 ≤ b.toNat then (b.toNat : Int) - 256 else b.toNat := by
  rw [BitVec.toInt_eq_toNat_cond]
  split <;> split <;> omega

/-- Bit 7 as a comparison with the number 128. -/
theorem msb_eq_decide (b : Byte) : b.msb = decide (128 ≤ b.toNat) := BitVec.msb_eq_decide b

/-- Overflow of an addition in the terms of R182: bit 7 of the operands agrees, and bit 7 of the sum is another. -/
theorem addOverflow_eq (a v : Byte) (t : Nat) :
    addOverflow a v t =
      decide (a.toNat / 128 = v.toNat / 128 ∧ a.toNat / 128 ≠ t / 128 % 2) := by
  have ha := a.isLt
  have hv := v.isLt
  rw [Bool.eq_iff_iff, addOverflow, msb_eq_decide, msb_eq_decide, testBit7_eq_decide]
  simp only [Bool.and_eq_true, beq_iff_eq, bne_iff_ne, decide_eq_decide, decide_eq_true_eq, ne_eq]
  omega

/-! ### Addition -/

/-- V of a binary addition: the signed sum leaves the range of a signed byte (R181). -/
theorem addOverflow_eq_signed (a v : Byte) (c : Bool) :
    addOverflow a v (a.toNat + v.toNat + c.toNat) =
      decide (a.toInt + v.toInt + c.toNat < -128 ∨ 127 < a.toInt + v.toInt + c.toNat) := by
  have ha := a.isLt
  have hv := v.isLt
  have hc := c.toNat_le
  rw [addOverflow_eq, decide_eq_decide, toInt_eq, toInt_eq]
  split <;> split <;> omega

theorem adcBinary_eq (a v : Byte) (c : Bool) :
    adcBinary a v c =
      let t := a.toNat + v.toNat + c.toNat
      let signed := a.toInt + v.toInt + c.toNat
      { value := BitVec.ofNat 8 t
        c := decide (256 ≤ t)
        z := decide (t % 256 = 0)
        v := decide (signed < -128 ∨ 127 < signed)
        n := decide (128 ≤ t % 256) } := by
  rw [adcBinary, addOverflow_eq_signed, testBit7_eq_decide]
  rfl

/-- Settles O11: with D = 0 the adder is the binary one (`adcBinary_eq`). -/
theorem adcBinaryAddsWithCarry : Obligations.AdcBinaryAddsWithCarry := by
  refine fun i s h hd => ⟨(adc_rows h).1, ?_⟩
  rw [exec_adc h, writeAlu_afterRead, adc_binary _ _ _ hd, adcBinary_eq]

/-- The digit corrections of R182 with the flags as numbers. -/
theorem adcCorrected_eq (a v : Byte) (c : Bool) :
    adcCorrected a v c =
      let t := a.toNat + v.toNat + c.toNat
      let t1 := if 9 < a.toNat % 16 + v.toNat % 16 + c.toNat then t + 6 else t
      let t2 := if 0x99 < t1 then t1 + 0x60 else t1
      { value := BitVec.ofNat 8 t2
        c := decide (0x99 < t2)
        z := decide (t % 256 = 0)
        v := decide (a.toNat / 128 = v.toNat / 128 ∧ a.toNat / 128 ≠ t1 / 128 % 2)
        n := decide (128 ≤ t1 % 256) } := by
  rw [adcCorrected]
  simp only [addOverflow_eq, testBit7_eq_decide]
  rfl

theorem validBcd_iff (v : Byte) : validBcd v = true ↔ isBcd v := by
  rw [validBcd, Bool.and_eq_true, decide_eq_true_iff, decide_eq_true_iff, isBcd]

/-- Settles O12: where R182 fixes the results they are the corrected ones (`adc_decimal`), and Z is the binary sum's everywhere
(`adc_decimal_z`). -/
theorem adcDecimalCorrectsTheDigits : Obligations.AdcDecimalCorrectsTheDigits := by
  intro i s h hd a v c t t1 t2
  rw [exec_adc h, writeAlu_afterRead]
  generalize hr : adc s.cfg.decimal s.a (value i.operand s) s.flags = r
  refine ⟨fun hk => ?_, r.value, r.c, r.v, r.n, ?_⟩
  · rw [← validBcd_iff, ← validBcd_iff] at hk
    rw [← hr, adc_decimal _ _ _ hd hk, adcCorrected_eq]
  · have hz : r.z = decide (t % 256 = 0) := by rw [← hr, adc_decimal_z _ _ _ hd, adcBinary_eq]
    rw [hz]

/-! ### Subtraction -/

/-- The difference of R183 with the borrow `1 - C` as a number. -/
theorem sbcDifference_eq (a v : Byte) (c : Bool) :
    sbcDifference a v c = (a.toNat : Int) - v.toNat - (1 - c.toNat) := by
  cases c <;> rfl

/-- The residue modulo 256, with the modulus as a number. -/
theorem ofInt_toNat (t : Int) : (BitVec.ofInt 8 t).toNat = (t % 256).toNat := BitVec.toNat_ofInt t

theorem sbcBinary_eq (a v : Byte) (c : Bool) :
    sbcBinary a v c =
      let t : Int := a.toNat - v.toNat - (1 - c.toNat)
      let signed : Int := a.toInt - v.toInt - (1 - c.toNat)
      { value := BitVec.ofInt 8 t
        c := decide (0 ≤ t)
        z := decide (t % 256 = 0)
        v := decide (signed < -128 ∨ 127 < signed)
        n := decide (128 ≤ t % 256) } := by
  have ha := a.isLt
  have hv := v.isLt
  have hc := c.toNat_le
  simp only [sbcBinary, sbcDifference_eq, AluResult.mk.injEq, true_and, msb_eq_decide, ofInt_toNat, toInt_eq]
  refine ⟨?zero, ?overflow, ?negative⟩
  case zero =>
    have hzero : (0 : Byte).toNat = 0 := rfl
    rw [Bool.eq_iff_iff, beq_iff_eq, decide_eq_true_iff, ← BitVec.toNat_inj, ofInt_toNat, hzero]
    omega
  case overflow =>
    rw [Bool.eq_iff_iff]
    simp only [Bool.and_eq_true, bne_iff_ne, ne_eq, decide_eq_decide, decide_eq_true_eq]
    split <;> split <;> omega
  case negative =>
    rw [decide_eq_decide]
    omega

/-- Settles O13: with D = 0 the subtracter is the binary one (`sbcBinary_eq`). -/
theorem sbcBinarySubtractsWithBorrow : Obligations.SbcBinarySubtractsWithBorrow := by
  refine fun i s h hd => ⟨(sbc_rows h).1, ?_⟩
  rw [exec_sbc h, writeAlu_afterRead, sbc_binary _ _ _ hd, sbcBinary_eq]

/-- The digit corrections of R184 with the borrow as a number. -/
theorem sbcCorrected_eq (a v : Byte) (c : Bool) :
    sbcCorrected a v c =
      let b : Int := 1 - c.toNat
      let t : Int := a.toNat - v.toNat - b
      let t1 := if (a.toNat : Int) % 16 - b < (v.toNat : Int) % 16 then t - 6 else t
      BitVec.ofInt 8 (if t1 < 0 ∨ 0x99 < t1 then t1 - 0x60 else t1) := by
  cases c <;> rfl

/-- Writing the result of a decimal subtraction sets the flags of the binary difference (R183). -/
theorem writeAlu_sbc_decimal (k : Choice) (a v : Byte) {f : Flags} (h : f.d = true) (s : State) :
    writeAlu (sbc k a v f) s = writeAlu { sbcBinary a v f.c with value := (sbc k a v f).value } s := by
  rw [writeAlu, sbc_decimal_flags k a v h]
  rfl

/-- Settles O14: the flags are the binary difference's everywhere (`sbc_decimal_flags`), and where R184 fixes A it is the corrected
difference (`sbc_decimal`). -/
theorem sbcDecimalCorrectsTheDigits : Obligations.SbcDecimalCorrectsTheDigits := by
  intro i s h hd a v b t signed t1 t2
  refine ⟨(sbc s.cfg.decimal s.a (value i.operand s) s.flags).value, ?_, fun hk => ?_⟩
  · rw [exec_sbc h, writeAlu_sbc_decimal _ _ _ hd, writeAlu_afterRead, sbcBinary_eq]
  · rw [← validBcd_iff, ← validBcd_iff] at hk
    rw [sbc_decimal _ _ _ hd hk, sbcCorrected_eq]

/-! ### Decimal arithmetic -/

theorem bcd_toNat {n : Nat} (h : n < 100) : (bcd n).toNat = 16 * (n / 10) + n % 10 := by
  rw [bcd, BitVec.toNat_ofNat]
  omega

theorem bcd_isBcd {n : Nat} (h : n < 100) : isBcd (bcd n) := by
  rw [isBcd, bcd_toNat h]
  omega

/-- A number below 100 by its two digits (R14). -/
theorem exists_digits {n : Nat} (h : n < 100) : ∃ tens ones, tens ≤ 9 ∧ ones ≤ 9 ∧ n = 10 * tens + ones :=
  ⟨n / 10, n % 10, by omega, by omega, by omega⟩

/-- The byte of two digits, and its low nibble, by the digits (R14, R15). -/
theorem bcd_toNat_digits {tens ones : Nat} (htens : tens ≤ 9) (hones : ones ≤ 9) : (bcd (10 * tens + ones)).toNat = 16 * tens + ones := by
  rw [bcd_toNat (by omega)]
  omega

/-- The byte of a sum without its hundred: the high digit loses ten when it carries. -/
theorem bcd_mod_toNat {tens ones : Nat} (htens : tens < 20) (hones : ones ≤ 9) :
    (bcd ((10 * tens + ones) % 100)).toNat = 16 * (if 10 ≤ tens then tens - 10 else tens) + ones := by
  have hsplit : (10 * tens + ones) % 100 = 10 * (if 10 ≤ tens then tens - 10 else tens) + ones := by split <;> omega
  rw [hsplit, bcd_toNat_digits (by split <;> omega) hones]

/-- The byte of a difference modulo 100: the high digit gains ten when it borrows. -/
theorem bcd_emod_toNat {tens : Int} {ones : Nat} (hlow : -10 ≤ tens) (htens : tens < 10) (hones : ones ≤ 9) :
    ((bcd ((10 * tens + ones) % 100).toNat).toNat : Int) = 16 * (if tens < 0 then tens + 10 else tens) + ones := by
  have hsplit : ((10 * tens + ones) % 100).toNat = 10 * (if tens < 0 then tens + 10 else tens).toNat + ones := by split <;> omega
  rw [hsplit, bcd_toNat_digits (by split <;> omega) hones]
  split <;> omega

/-- The corrected sum of two-digit numbers is their decimal sum, and its carry the hundred (R182). The two corrections are the
carries of the two digits. -/
theorem adcCorrected_bcd {p q : Nat} (hp : p < 100) (hq : q < 100) (c : Bool) :
    (adcCorrected (bcd p) (bcd q) c).value = bcd ((p + q + c.toNat) % 100) ∧
      (adcCorrected (bcd p) (bcd q) c).c = decide (100 ≤ p + q + c.toNat) := by
  have hc := c.toNat_le
  obtain ⟨ph, pl, hph, hpl, rfl⟩ := exists_digits hp
  obtain ⟨qh, ql, hqh, hql, rfl⟩ := exists_digits hq
  simp only [adcCorrected_eq, bcd_toNat_digits hph hpl, bcd_toNat_digits hqh hql]
  generalize c.toNat = k at hc ⊢
  refine ⟨BitVec.eq_of_toNat_eq ?_, ?_⟩
  · rw [BitVec.toNat_ofNat]
    by_cases hcarry : 9 < pl + ql + k
    · have hsum : 10 * ph + pl + (10 * qh + ql) + k = 10 * (ph + qh + 1) + (pl + ql + k - 10) := by omega
      have hlow : 9 < (16 * ph + pl) % 16 + (16 * qh + ql) % 16 + k := by omega
      rw [hsum, bcd_mod_toNat (by omega) (by omega), if_pos hlow]
      split <;> split <;> omega
    · have hsum : 10 * ph + pl + (10 * qh + ql) + k = 10 * (ph + qh) + (pl + ql + k) := by omega
      have hlow : ¬ 9 < (16 * ph + pl) % 16 + (16 * qh + ql) % 16 + k := by omega
      rw [hsum, bcd_mod_toNat (by omega) (by omega), if_neg hlow]
      split <;> split <;> omega
  · rw [decide_eq_decide]
    split <;> split <;> omega

/-- The corrected difference of two-digit numbers is their decimal difference (R184). The two corrections are the borrows of the
two digits. -/
theorem sbcCorrected_bcd {p q : Nat} (hp : p < 100) (hq : q < 100) (c : Bool) :
    sbcCorrected (bcd p) (bcd q) c = bcd (((p : Int) - q - (1 - c.toNat)) % 100).toNat := by
  have hc := c.toNat_le
  obtain ⟨ph, pl, hph, hpl, rfl⟩ := exists_digits hp
  obtain ⟨qh, ql, hqh, hql, rfl⟩ := exists_digits hq
  simp only [sbcCorrected_eq, bcd_toNat_digits hph hpl, bcd_toNat_digits hqh hql]
  generalize c.toNat = k at hc ⊢
  refine BitVec.eq_of_toNat_eq ?_
  rw [ofInt_toNat]
  by_cases hborrow : pl + k < ql + 1
  · have hdifference : ((10 * ph + pl : Nat) : Int) - (10 * qh + ql : Nat) - (1 - k) =
        10 * ((ph : Int) - qh - 1) + (pl + k + 9 - ql : Nat) := by omega
    have hbyte := bcd_emod_toNat (tens := (ph : Int) - qh - 1) (ones := pl + k + 9 - ql) (by omega) (by omega) (by omega)
    have hlow : ((16 * ph + pl : Nat) : Int) % 16 - (1 - k) < ((16 * qh + ql : Nat) : Int) % 16 := by omega
    rw [hdifference, if_pos hlow]
    split at hbyte <;> split <;> omega
  · have hdifference : ((10 * ph + pl : Nat) : Int) - (10 * qh + ql : Nat) - (1 - k) =
        10 * ((ph : Int) - qh) + (pl + k - 1 - ql : Nat) := by omega
    have hbyte := bcd_emod_toNat (tens := (ph : Int) - qh) (ones := pl + k - 1 - ql) (by omega) (by omega) (by omega)
    have hlow : ¬ ((16 * ph + pl : Nat) : Int) % 16 - (1 - k) < ((16 * qh + ql : Nat) : Int) % 16 := by omega
    rw [hdifference, if_neg hlow]
    split at hbyte <;> split <;> omega

/-- Two-digit numbers compare as their bytes do, with the borrow (R183). -/
theorem sbcBinary_bcd_c {p q : Nat} (hp : p < 100) (hq : q < 100) (c : Bool) :
    (sbcBinary (bcd p) (bcd q) c).c = decide (0 ≤ (p : Int) - q - (1 - c.toNat)) := by
  have hc := c.toNat_le
  simp only [sbcBinary_eq, bcd_toNat hp, bcd_toNat hq]
  rw [decide_eq_decide]
  omega

/-- Settles O15: valid BCD operands are where R182 and R184 fix every result, and the corrected results are decimal. -/
theorem decimalModeIsDecimalArithmetic : Obligations.DecimalModeIsDecimalArithmetic := by
  intro i s p q hd hp hq ha hv
  have hvalid (k : Choice) : k = .reference ∨ validBcd (bcd p) = true ∧ validBcd (bcd q) = true :=
    .inr ⟨(validBcd_iff _).2 (bcd_isBcd hp), (validBcd_iff _).2 (bcd_isBcd hq)⟩
  refine ⟨fun h => ?_, fun h => ?_⟩
  · refine ⟨_, exec_adc h s, ?_⟩
    rw [ha, hv, adc_decimal _ _ _ hd (hvalid _)]
    exact adcCorrected_bcd hp hq s.flags.c
  · refine ⟨_, exec_sbc h s, ?_⟩
    rw [ha, hv, sbc_decimal _ _ _ hd (hvalid _)]
    exact ⟨sbcCorrected_bcd hp hq s.flags.c, sbcBinary_bcd_c hp hq s.flags.c⟩

end Sys2Proof.Proofs.AddSubtract
end

section
/-! PROOFS. What a write leaves as it was (20_memory.md R53 to R56): no address but those of its cell, through the bus, for stores,
for pushes and for the instructions made of them. -/

namespace Sys2Proof.Proofs.WriteFrame

open Sys2Proof Sys2Proof.Machine Sys2Proof.Claims
open Sys2Proof.Proofs.Operands Sys2Proof.Proofs.LoadStore Sys2Proof.Proofs.CompareAndCount
open Sys2Proof.Proofs.LogicAndShift Sys2Proof.Proofs.FlagStack Sys2Proof.Proofs.ControlFlow Sys2Proof.Proofs.StackRam
open Sys2Proof.Proofs.Exceptions

/-! ### One write on the bus -/

/-- A window, or a RAM cell that is not the one at `e`, reads as before a write at `e` below the windows, whether that reaches
RAM or a device (R53, R56). -/
theorem read_write_of_apart {b : Bus} (hb : b.low.ram.wf) (cfg : Params) {a e : Word} (v : Byte) (he : e.toNat < 0x8000)
    (h : 0x8000 ≤ a.toNat ∨ ∃ c, b.low.target a = .cell c ∧ b.low.target e ≠ .cell c) :
    (b.write cfg e v).read a = b.read a := by
  cases ht : b.low.target e with
  | cell d =>
    rw [Bus.read_write_cell cfg he v hb ht, if_neg]
    rintro ⟨hlow, ha⟩
    obtain ⟨c, hc, hne⟩ := h.resolve_left (by omega)
    exact hne (ht.trans (ha.symm.trans hc))
  | device k =>
    rw [Bus.write_low cfg he]
    by_cases hlow : a.toNat < 0x8000
    · obtain ⟨c, hc, -⟩ := h.resolve_left (by omega)
      rw [Bus.read_low _ hlow, Bus.read_low _ hlow, LowBus.read_write_device ht v hc]
    · rw [Bus.read_window _ (by omega), Bus.read_window _ (by omega)]

/-- With flat RAM, any address but `e` is apart from `e` (R56). -/
theorem apart_of_flat {s : State} (hflat : s.bus.low.map = []) {a e : Word} (h : a ≠ e) : apart s a e := by
  refine .inr ⟨a.toNat, LowBus.target_flat hflat a, ?_⟩
  rw [LowBus.target_flat hflat]
  exact fun hcell => h (BitVec.toNat_inj.1 (LowTarget.cell.inj hcell)).symm

/-- Which addresses are apart depends on the map of `LowBus` alone. -/
theorem apart_congr {s t : State} (hmap : t.bus.low.map = s.bus.low.map) {a e : Word} : apart t a e ↔ apart s a e := by
  simp only [apart, LowBus.target, hmap]

/-! ### Reads of a row of cells -/

@[simp] theorem looks_map (ks : List Nat) (s : State) : (looks ks s).bus.low.map = s.bus.low.map := by
  induction ks generalizing s with
  | nil => rfl
  | cons k ks ih => exact (ih (look k s)).trans (Bus.afterRead_map s.bus _)

@[simp] theorem looks_ram (ks : List Nat) (s : State) : (looks ks s).bus.low.ram = s.bus.low.ram := by
  induction ks generalizing s with
  | nil => rfl
  | cons k ks ih => exact (ih (look k s)).trans (Bus.afterRead_ram s.bus _)

@[simp] theorem looks_cart (ks : List Nat) (s : State) : (looks ks s).bus.cart = s.bus.cart := by
  induction ks generalizing s with
  | nil => rfl
  | cons k ks ih => exact (ih (look k s)).trans (Bus.afterRead_cart s.bus _)

@[simp] theorem looks_pages (ks : List Nat) (s : State) : (looks ks s).bus.pages = s.bus.pages := by
  induction ks generalizing s with
  | nil => rfl
  | cons k ks ih => exact (ih (look k s)).trans (Bus.afterRead_pages s.bus _)

/-- Reads, of devices too, change what no window and no RAM address reads as (R53, R56). -/
theorem looks_read (ks : List Nat) (s : State) {a : Word} (h : 0x8000 ≤ a.toNat ∨ ∃ c, s.bus.low.target a = .cell c) :
    (looks ks s).bus.read a = s.bus.read a := by
  induction ks generalizing s with
  | nil => rfl
  | cons k ks ih =>
    have hlook : 0x8000 ≤ a.toNat ∨ ∃ c, (look k s).bus.low.target a = .cell c := by
      simpa only [LowBus.target, look, Bus.afterRead_map] using h
    exact (ih (look k s) hlook).trans (Bus.read_afterRead s.bus _ h)

/-! ### Stores -/

/-- A storing instruction on memory writes one byte at its effective address, after reads; it sets flags at most besides. -/
theorem exec_memory_write {i : Instr} {m : MemMode} {s t : State} (hm : i.operand = .mem m)
    (hn : i.mnemonic ∈ [.sta, .stx, .sty, .inc, .dec, .asl, .lsr, .rol, .ror]) (h : exec i s = .next t) :
    ∃ cells v fl, t = { afterWrite i m cells v s with flags := fl } := by
  have hstore {r : Byte} (hexec : exec i s = .next (afterStore i r s)) :
      ∃ cells v fl, t = { afterWrite i m cells v s with flags := fl } := by
    rw [afterStore, hm] at hexec
    cases h.symm.trans hexec
    exact ⟨_, _, _, rfl⟩
  have hmodify {r : Byte} {fl : Flags} (hexec : exec i s = .next { afterModify i r s with flags := fl }) :
      ∃ cells v fl, t = { afterWrite i m cells v s with flags := fl } := by
    rw [afterModify, hm] at hexec
    cases h.symm.trans hexec
    exact ⟨_, _, _, rfl⟩
  obtain ⟨hsta, hstx, hsty⟩ := storesWriteTheEffectiveAddress i s
  obtain ⟨hinc, hdec⟩ := incDecModifyMemory i s
  obtain ⟨hasl, hlsr, hrol, hror⟩ := shiftsMoveOneBit i s
  simp only [List.mem_cons, List.not_mem_nil, or_false] at hn
  rcases hn with hn | hn | hn | hn | hn | hn | hn | hn | hn
  · exact hstore (hsta hn).2
  · exact hstore (hstx hn).2
  · exact hstore (hsty hn).2
  · exact hmodify (hinc hn).2
  · exact hmodify (hdec hn).2
  · exact hmodify (hasl hn).2
  · exact hmodify (hlsr hn).2
  · exact hmodify (hrol hn).2
  · exact hmodify (hror hn).2

theorem afterWrite_bus (i : Instr) (m : MemMode) (cells : List Nat) (v : Byte) (s : State) :
    (afterWrite i m cells v s).bus = (looks cells s).bus.write s.cfg (BitVec.ofNat 16 (ea m s)) v := rfl

/-- A write after reads leaves every register but PC. -/
theorem afterWrite_registers (i : Instr) (m : MemMode) (cells : List Nat) (v : Byte) (s : State) :
    (afterWrite i m cells v s).sp = s.sp ∧ (afterWrite i m cells v s).x = s.x ∧ (afterWrite i m cells v s).y = s.y ∧
      (afterWrite i m cells v s).a = s.a := by
  have hframe := looks_frame cells s
  exact ⟨(congrArg State.sp hframe :), (congrArg State.x hframe :), (congrArg State.y hframe :),
    (congrArg State.a hframe :)⟩

theorem ea_lt (m : MemMode) (s : State) : ea m s < 65536 := by
  cases m with
  | zp b => exact Nat.lt_trans b.isLt (by decide)
  | zpx b | zpy b => exact Nat.lt_trans (Nat.mod_lt _ (by decide)) (by decide)
  | abs w => exact w.isLt
  | abx w | aby w | izy w => exact Nat.mod_lt _ (by decide)
  | izx b => exact pointer_lt s _

theorem ofNat_ea_toNat (m : MemMode) (s : State) : (BitVec.ofNat 16 (ea m s)).toNat = ea m s := by
  rw [BitVec.toNat_ofNat, Nat.mod_eq_of_lt (ea_lt m s)]

/-- What is apart from the effective address reads as before the write there, and before the reads that come first. -/
theorem afterWrite_read (i : Instr) {m : MemMode} (cells : List Nat) (v : Byte) {s : State} (hw : s.bus.low.ram.wf)
    (hea : ea m s < 0x8000) {a : Word} (h : apart s a (BitVec.ofNat 16 (ea m s))) :
    (afterWrite i m cells v s).bus.read a = s.bus.read a := by
  have hread : 0x8000 ≤ a.toNat ∨ ∃ c, s.bus.low.target a = .cell c := h.imp_right fun ⟨c, hc, _⟩ => ⟨c, hc⟩
  have hlooks : apart (looks cells s) a (BitVec.ofNat 16 (ea m s)) := (apart_congr (looks_map cells s)).2 h
  rw [afterWrite_bus, read_write_of_apart (by rwa [looks_ram]) s.cfg v (by rwa [ofNat_ea_toNat]) hlooks,
    looks_read cells s hread]

/-- Settles O9: the one write of `exec_memory_write`, seen through the bus. -/
theorem storeFrame : Obligations.StoreFrame := by
  intro i m s t hw hm hn h
  obtain ⟨cells, v, fl, rfl⟩ := exec_memory_write hm hn h
  refine ⟨fun hlow => ⟨fun a ha => ?apart, fun hflat a ha => ?flat⟩, fun hwindow => ?ram, ?cart, ?registers⟩
  case apart => exact afterWrite_read i cells v hw hlow ha
  case flat =>
    have hne : a ≠ BitVec.ofNat 16 (ea m s) := fun he => ha (by rw [he, ofNat_ea_toNat])
    exact afterWrite_read i cells v hw hlow (apart_of_flat hflat hne)
  case ram =>
    have hnot : ¬ (BitVec.ofNat 16 (ea m s)).toNat < 0x8000 := by rw [ofNat_ea_toNat]; omega
    exact (congrArg LowBus.ram ((Bus.write_low_eq _ _ _ _).trans (if_neg hnot))).trans (looks_ram cells s)
  case cart => exact (Bus.write_cart _ _ _ _).trans (looks_cart cells s)
  case registers => exact afterWrite_registers i m cells v s

/-! ### Pushes -/

theorem stackCell_low (sp : Byte) : (stackCell sp).toNat < 0x8000 := stackAddr_eq_stackCell sp ▸ stackAddr_low sp

theorem stackCell_toNat (sp : Byte) : (stackCell sp).toNat = 256 + sp.toNat := by
  rw [← stackAddr_eq_stackCell, stackAddr_toNat]

theorem push_ram_wf {s : State} (hw : s.bus.low.ram.wf) (v : Byte) : (push v s).bus.low.ram.wf := by
  rw [push_bus, Bus.write_low_eq, if_pos (stackAddr_low s.sp)]
  exact LowBus.write_ram_wf hw _ _

/-- What is apart from the stack cell of SP reads as before the push, whatever answers there (R31, R56). -/
theorem push_read_of_apart {s : State} (hw : s.bus.low.ram.wf) (v : Byte) {a : Word} (h : apart s a (stackCell s.sp)) :
    (push v s).bus.read a = s.bus.read a := by
  rw [push_bus, stackAddr_eq_stackCell]
  exact read_write_of_apart hw s.cfg v (stackCell_low s.sp) h

/-- Settles O26: the pop reads the cell just pushed to, and that cell is all the push writes. -/
theorem pushThenPopGivesTheByteBack : Obligations.PushThenPopGivesTheByteBack := by
  intro v s hw
  refine ⟨fun hr => ?pop, ?sp, fun a ha => push_read_of_apart hw v ha, fun hflat a ha => ?flat, ?wrap⟩
  case pop => rw [pop_eq_pulled, popped_push_one ⟨hw, hr⟩]
  case sp => exact BitVec.sub_add_cancel s.sp 1
  case flat =>
    have hne : a ≠ stackCell s.sp := fun he => ha (by rw [he, stackCell_toNat])
    exact push_read_of_apart hw v (apart_of_flat hflat hne)
  case wrap =>
    rw [push_sp, sub_one_eq_ofNat, BitVec.toNat_ofNat]

/-- What is apart from all the cells of a row of pushes reads as before them. -/
theorem pushed_read {vs : List Byte} {s : State} (hw : s.bus.low.ram.wf) {a : Word}
    (h : ∀ k < vs.length, apart s a (stackCell (s.sp - BitVec.ofNat 8 k))) : (pushed vs s).bus.read a = s.bus.read a := by
  induction vs generalizing s with
  | nil => rfl
  | cons v vs ih =>
    have hfirst : apart s a (stackCell s.sp) := by simpa using h 0 (Nat.succ_pos _)
    have hrest : ∀ k < vs.length, apart (push v s) a (stackCell ((push v s).sp - BitVec.ofNat 8 k)) := by
      intro k hk
      have hcell : s.sp - BitVec.ofNat 8 (k + 1) = s.sp - 1 - BitVec.ofNat 8 k := by
        rw [BitVec.ofNat_add]; bv_omega
      rw [apart_congr (push_keeps v s).map, push_sp, ← hcell]
      exact h (k + 1) (Nat.succ_lt_succ hk)
    rw [pushed_cons, ih (push_ram_wf hw v) hrest, push_read_of_apart hw v hfirst]

/-- A row of pushes moves SP down by its length and leaves the other registers and the bank selection. -/
theorem pushed_frame (vs : List Byte) (s : State) :
    (pushed vs s).sp = s.sp - BitVec.ofNat 8 vs.length ∧ (pushed vs s).a = s.a ∧ (pushed vs s).x = s.x ∧
      (pushed vs s).y = s.y ∧ (pushed vs s).bus.pages = s.bus.pages ∧ (pushed vs s).bus.low.map = s.bus.low.map := by
  induction vs generalizing s with
  | nil => exact ⟨(BitVec.sub_zero s.sp).symm, rfl, rfl, rfl, rfl, rfl⟩
  | cons v vs ih =>
    obtain ⟨hsp, ha, hx, hy, hpages, hmap⟩ := ih (push v s)
    have hcell : s.sp - 1 - BitVec.ofNat 8 vs.length = s.sp - BitVec.ofNat 8 (vs.length + 1) := by
      rw [BitVec.ofNat_add]; bv_omega
    have hbank : (push v s).bus.pages = s.bus.pages := by
      rw [push_bus, Bus.write_low _ (stackAddr_low s.sp)]
    rw [pushed_cons]
    exact ⟨hsp.trans hcell, ha, hx, hy, hpages.trans hbank, hmap.trans (push_keeps v s).map⟩

/-- What a row of `n` pushes from `s` may have changed on the way to `t`: its stack cells and SP. -/
structure ChangesPushed (n : Nat) (s t : State) : Prop where
  map : t.bus.low.map = s.bus.low.map
  read : ∀ a : Word, (∀ k < n, apart s a (stackCell (s.sp - BitVec.ofNat 8 k))) → t.bus.read a = s.bus.read a
  sp : t.sp = s.sp - BitVec.ofNat 8 n
  a : t.a = s.a
  x : t.x = s.x
  y : t.y = s.y
  pages : t.bus.pages = s.bus.pages

theorem pushed_changes (vs : List Byte) {s : State} (hw : s.bus.low.ram.wf) : ChangesPushed vs.length s (pushed vs s) := by
  obtain ⟨hsp, ha, hx, hy, hpages, hmap⟩ := pushed_frame vs s
  exact ⟨hmap, fun _ => pushed_read hw, hsp, ha, hx, hy, hpages⟩

/-- The reads of a vector, after at least one push, change nothing in that frame. -/
theorem ChangesPushed.looks {n : Nat} {s t : State} (h : ChangesPushed n s t) (hn : 0 < n) (ks : List Nat) :
    ChangesPushed n s (looks ks t) := by
  have hframe := looks_frame ks t
  have hread (a : Word) (ha : ∀ k < n, apart s a (stackCell (s.sp - BitVec.ofNat 8 k))) :
      (Claims.looks ks t).bus.read a = t.bus.read a := by
    have hcell : apart t a _ := (apart_congr h.map).2 (ha 0 hn)
    exact looks_read ks t (hcell.imp_right fun ⟨c, hc, _⟩ => ⟨c, hc⟩)
  exact ⟨(looks_map ks t).trans h.map, fun a ha => (hread a ha).trans (h.read a ha), (congrArg State.sp hframe :).trans h.sp,
    (congrArg State.a hframe :).trans h.a, (congrArg State.x hframe :).trans h.x, (congrArg State.y hframe :).trans h.y,
    (looks_pages ks t).trans h.pages⟩

/-- PC, the flags and the cycle count are no part of that frame, on either side. -/
theorem ChangesPushed.update {n : Nat} {s t : State} {pc : Word} {cycles : Nat}
    (h : ChangesPushed n { s with pc := pc, cycles := cycles } t) (pc' : Word) (fl : Flags) :
    ChangesPushed n s { t with pc := pc', flags := fl } :=
  ⟨h.map, h.read, h.sp, h.a, h.x, h.y, h.pages⟩

/-- The pushing instructions push one, one, two and three bytes, and change nothing else on the bus. -/
theorem exec_changes_pushed {i : Instr} {s t : State} {n : Nat} (hw : s.bus.low.ram.wf) (h : exec i s = .next t)
    (hi : i.mnemonic = .pha ∧ n = 1 ∨ i.mnemonic = .php ∧ n = 1 ∨ i.mnemonic = .jsr ∧ n = 2 ∨ i.mnemonic = .brk ∧ n = 3) :
    ChangesPushed n s t := by
  have hpushed (j : Instr) (vs : List Byte) : ChangesPushed vs.length (stepped j 0 s) (pushed vs (stepped j 0 s)) :=
    pushed_changes vs hw
  obtain ⟨hn, rfl⟩ | ⟨hn, rfl⟩ | ⟨hn, rfl⟩ | ⟨hn, rfl⟩ := hi
  · match i, hn with
    | .pha, _ =>
      cases (pushesWriteTheStackCell.2.2 s).1.symm.trans h
      exact (hpushed .pha [s.a]).update _ _
  · match i, hn with
    | .php, _ =>
      cases (pushesWriteTheStackCell.2.2 s).2.symm.trans h
      exact (hpushed .php [s.flags.pack true]).update _ _
  · match i, hn with
    | .jsr w, _ =>
      cases (jsrPushesTheReturnAddress w s).2.symm.trans h
      exact (hpushed (.jsr w) [hi (s.pc + 2), lo (s.pc + 2)]).update _ _
  · match i, hn with
    | .brk, _ =>
      cases (brkEntersTheHandler.2 s).symm.trans h
      exact ((hpushed .brk [hi (s.pc + 2), lo (s.pc + 2), s.flags.pack true]).looks (Nat.succ_pos _) _).update _ _

/-- Settles O27: the frame of `exec_changes_pushed`; with flat RAM every other address is apart from the cells. -/
theorem pushFrame : Obligations.PushFrame := by
  intro i s t n hw h hi
  have hframe := exec_changes_pushed hw h hi
  exact ⟨hframe.read, fun hflat a ha => hframe.read a fun k hk => apart_of_flat hflat (ha k hk), hframe.sp, hframe.a, hframe.x,
    hframe.y, hframe.pages⟩

/-! ### Round trips through the stack -/

/-- The two pops after a 16-bit push give its bytes back, low byte first (R32). -/
theorem popped_push16 {s : State} (h : StackIsRam s) (w : Word) :
    popped (push16 w s) 1 = lo w ∧ popped (push16 w s) 2 = hi w := by
  have hhi : StackIsRam (push (hi w) s) := h.push _
  exact ⟨popped_push_one hhi _, (popped_push_succ hhi _ (by decide) (by decide)).trans (popped_push_one h _)⟩

/-- Settles O32: the two pops give `pcn - 1` back, and RTS goes one past it. -/
theorem rtsUndoesJsr : Obligations.RtsUndoesJsr := by
  intro w s t u hw hr hjsr hsp hpopped
  have hframe := exec_changes_pushed (n := 2) hw hjsr (.inr (.inr (.inl ⟨rfl, rfl⟩)))
  have hstack : StackIsRam (stepped (.jsr w) 0 s) := ⟨hw, hr⟩
  have hpushed : StackIsRam (push16 (s.pc + 2) (stepped (.jsr w) 0 s)) := (hstack.push _).push _
  obtain ⟨hlo, hhi⟩ := popped_push16 hstack (s.pc + 2)
  cases (jsrPushesTheReturnAddress w s).2.symm.trans hjsr
  rw [← push16_eq_pushed] at hpopped hsp hframe
  have hlow : popped u 1 = lo (s.pc + 2) :=
    (hpopped 0 (by decide)).trans ((popped_update hpushed.ramPages _ _ _ 1).trans hlo)
  have hhigh : popped u 2 = hi (s.pc + 2) :=
    (hpopped 1 (by decide)).trans ((popped_update hpushed.ramPages _ _ _ 2).trans hhi)
  refine ⟨_, rtsPopsTheReturnAddress.2 u, ?pc, ?sp⟩
  case pc =>
    show BitVec.ofNat 16 ((popped u 1).toNat + 256 * (popped u 2).toNat + 1) = s.pc + 3
    rw [hlow, hhigh, BitVec.ofNat_add, ← word_eq_ofNat, word_hi_lo]
    exact BitVec.add_assoc s.pc 2 1
  case sp =>
    show (pulled 2 u).sp = s.sp
    rw [pulled_sp, hsp, hframe.sp]
    exact BitVec.sub_add_cancel s.sp 2

/-- What an interrupt leaves for the pops of its handler: the status byte with bit 4 clear, and the displaced PC (R279). -/
theorem popped_interruptEntry {s : State} (h : StackIsRam s) (vec : Word) :
    popped (interruptEntry vec s) 1 = s.flags.pack false ∧
      word (popped (interruptEntry vec s) 3) (popped (interruptEntry vec s) 2) = s.pc := by
  have hframe : StackIsRam (push (s.flags.pack false) (push16 s.pc s)) := ((h.push _).push _).push _
  have hpopped (k : Nat) :
      popped (interruptEntry vec s) k = popped (push (s.flags.pack false) (push16 s.pc s)) k := by
    rw [interruptEntry_eq_throughVector, pushed_cons, pushed_cons, pushed_cons]
    exact (popped_update (hframe.looks _).ramPages _ _ _ k).trans (popped_looks hframe _ k)
  rw [hpopped, hpopped, hpopped]
  exact popped_push_push16 h s.pc _

/-- An interrupt pushes three bytes (R279). -/
theorem interruptEntry_sp (vec : Word) (s : State) : (interruptEntry vec s).sp = s.sp - 3 := by
  have hlooks := looks_frame [vec.toNat, vec.toNat + 1] (pushed [hi s.pc, lo s.pc, s.flags.pack false] s)
  rw [interruptEntry_eq_throughVector]
  exact (congrArg State.sp hlooks :).trans (pushed_frame _ s).1

/-- Settles O39: RTI's three pops take back what the sequence pushed, and the pushed bit 4 becomes B (`Flags.unpack_pack`). -/
theorem rtiResumesTheInterruptedCode : Obligations.RtiResumesTheInterruptedCode := by
  rintro s t u vec hw hr rfl hsp hpopped
  obtain ⟨hstatus, hret⟩ := popped_interruptEntry ⟨hw, hr⟩ vec
  rw [← hpopped 0 (by decide)] at hstatus
  rw [← hpopped 1 (by decide), ← hpopped 2 (by decide)] at hret
  refine ⟨_, rtiLeavesTheHandler.2 u, ?pc, ?sp, ?flags⟩
  case pc => rw [← hret, word_eq_ofNat]
  case sp =>
    show (pulled 3 u).sp = s.sp
    rw [pulled_sp, hsp, interruptEntry_sp]
    exact BitVec.sub_add_cancel s.sp 3
  case flags =>
    show Flags.unpack (popped u 1) = _
    rw [hstatus, Flags.unpack_pack]

end Sys2Proof.Proofs.WriteFrame
end

section
/-! PROOFS. RAM, devices and the program ROM as the CPU sees them (20_memory.md R53 to R60, R70 to R78): what a read gives after a
write, below the windows and through the banks, and the visible program ROM byte for byte. -/

namespace Sys2Proof.Proofs.BusReads

open Sys2Proof Sys2Proof.Machine Sys2Proof.Proofs.HostCalls

/-- A read of a device is answered by its oracle, and the devices have seen it once (R56, R60). -/
theorem read_afterRead_device {b : Bus} {a : Word} (ha : a.toNat < 0x8000) {k : Nat} (hk : b.low.target a = .device k) :
    b.read a = Config.deviceRead k b.low.history a ∧
      b.afterRead a = { b with low := { b.low with history := b.low.history ++ [.read a (b.read a)] } } := by
  rw [Bus.afterRead_low b ha, LowBus.afterRead_device hk, Bus.read_low b ha]
  exact ⟨LowBus.read_device hk, rfl⟩

/-- A write to a device is one more access that the devices have seen, and nothing else (R56, R60). -/
theorem write_device {b : Bus} (cfg : Params) {a : Word} (ha : a.toNat < 0x8000) {k : Nat} (hk : b.low.target a = .device k)
    (v : Byte) :
    b.write cfg a v = { b with low := { b.low with history := b.low.history ++ [.write a v] } } := by
  rw [Bus.write_low cfg ha, LowBus.write_device hk]

/-- With flat RAM a write is read back at its own address alone (R56). -/
theorem read_write_flat {b : Bus} (hb : b.low.ram.wf) (hflat : b.low.map = []) (cfg : Params) {a : Word}
    (ha : a.toNat < 0x8000) (v : Byte) (j : Word) : (b.write cfg a v).read j = if j = a then v else b.read j := by
  have hcell : (j.toNat < 0x8000 ∧ b.low.target j = .cell a.toNat) ↔ j = a := by
    rw [LowBus.target_flat hflat, LowTarget.cell.injEq, BitVec.toNat_inj]
    exact ⟨And.right, fun h => ⟨h ▸ ha, h⟩⟩
  rw [Bus.read_write_cell cfg ha v hb (LowBus.target_flat hflat a)]
  simp only [hcell]

/-- Settles O44: by what answers at the address, a RAM cell or a device. -/
theorem ramReadsBackWhatIsWritten : Obligations.RamReadsBackWhatIsWritten := by
  intro b cfg a j v hb ha
  refine ⟨fun c hc => ⟨Bus.read_write_cell cfg ha v hb hc j, Bus.afterRead_cell b hc⟩, fun k hk => ?_,
    fun hflat => read_write_flat hb hflat cfg ha v j, Bus.afterRead_window b⟩
  obtain ⟨hread, hafter⟩ := read_afterRead_device ha hk
  exact ⟨hread, hafter, write_device cfg ha hk v⟩

/-! ### The windows -/

/-- The reference `BankSelect` changes the lower bank and leaves the upper one (R75). -/
theorem write_pages_reference (b : Bus) {cfg : Params} (hk : cfg.bankSelect = .reference) {a : Word} (ha : 0x8000 ≤ a.toNat)
    (hlo : cfg.ctrlLo.toNat ≤ a.toNat) (hhi : a.toNat ≤ cfg.ctrlHi.toNat) (v : Byte) :
    (b.write cfg a v).pages = ⟨v.toNat % b.cart.prgRomPages, b.pages.upper⟩ := by
  rw [Bus.write_pages, if_pos ⟨ha, hlo, hhi⟩, hk]
  rfl

/-- Settles O47: both windows read through the banks that the write left selected (`write_pages_reference`). -/
theorem bankSwitchShowsTheNewBank : Obligations.BankSwitchShowsTheNewBank := by
  intro b cfg a j v hk ha hlo hhi
  have hpages := write_pages_reference b hk ha hlo hhi v
  refine ⟨fun hj hlower => ?_, fun hupper => ?_⟩
  · rw [Bus.read_window _ hj, if_pos hlower, hpages, Bus.write_cart]
    rfl
  · have hj : 0x8000 ≤ j.toNat := by omega
    have hnot : ¬ j.toNat < 0xC000 := by omega
    rw [Bus.read_window _ hj, Bus.read_window _ hj, if_neg hnot, if_neg hnot, hpages, Bus.write_cart]

/-- Byte `k` of the visible program ROM is what the CPU reads `k` past 0x8000 (R72). -/
theorem visibleByte_eq_read (b : Bus) {k : Nat} (hk : k < 32768) :
    b.visibleByte k = b.read (BitVec.ofNat 16 (0x8000 + k)) := by
  have haddr : (BitVec.ofNat 16 (0x8000 + k)).toNat = 0x8000 + k := by
    rw [BitVec.toNat_ofNat]; omega
  rw [Bus.read_window _ (by omega), haddr, Bus.visibleByte]
  by_cases hlower : k < prgPageSize
  · have hoffset : (0x8000 + k) % prgPageSize = k := by unfold prgPageSize at *; omega
    rw [if_pos hlower, if_pos (by unfold prgPageSize at hlower; omega), hoffset]
  · have hoffset : (0x8000 + k) % prgPageSize = k - prgPageSize := by unfold prgPageSize at *; omega
    rw [if_neg hlower, if_neg (by unfold prgPageSize at hlower; omega), hoffset]

/-- Settles O48: the visible bytes are the bus's, and `read_prg` is a slice of them (`readPrg_eq_slice`). -/
theorem visibleRomIsWhatTheCpuReads : Obligations.VisibleRomIsWhatTheCpuReads := by
  refine ⟨fun b k hk => ?_, fun s pc n hpc => readPrg_eq_slice s hpc n, fun s pc n hpc => if_pos hpc⟩
  rw [visiblePrg_getElem?, if_pos (show k < 2 * prgPageSize from hk), visibleByte_eq_read b hk]

end Sys2Proof.Proofs.BusReads
end

section
/-! PROOFS. The load of a cartridge image (20_memory.md R61 to R69) and power-on with it (70_reset_and_hazards.md R300): its checks
one by one, what an accepted image holds, and the machine that boots from it. -/

namespace Sys2Proof.Proofs.Loading

open Sys2Proof Sys2Proof.Machine Sys2Proof.Proofs.StepKeeps
open Sys2Proof.Machine.Memory (ofBytes)

/-! ### The header -/

/-- The two nibbles of R65 as numbers. -/
theorem mapperIdOf_toNat (f6 f7 : Byte) : (mapperIdOf f6 f7).toNat = f6.toNat / 16 + 16 * (f7.toNat / 16) := by
  have h6 := f6.isLt
  have h7 := f7.isLt
  have hdisjoint : f6 >>> 4 &&& (f7 >>> 4) <<< 4 = 0#8 := by
    ext k hk
    rcases Nat.lt_or_ge k 4 with hlow | hhigh
    · simp [hlow]
    · simp [BitVec.getLsbD_of_ge f6 (4 + k) (by omega)]
  rw [mapperIdOf, ← BitVec.add_eq_or_of_and_eq_zero _ _ hdisjoint]
  simp only [BitVec.toNat_add, BitVec.toNat_shiftLeft, BitVec.toNat_ushiftRight, Nat.shiftLeft_eq,
    Nat.shiftRight_eq_div_pow]
  omega

theorem mapperIdOf_eq_iff (f6 f7 id : Byte) : mapperIdOf f6 f7 = id ↔ f6.toNat / 16 + 16 * (f7.toNat / 16) = id.toNat := by
  rw [← BitVec.toNat_inj, mapperIdOf_toNat]

/-- The reserved bytes at offsets 11 to 15 one by one (R61). -/
theorem reserved_any_iff {bytes : List Byte} (hlen : 16 ≤ bytes.length) :
    ((bytes.drop 11).take 5).any (· ≠ 0) = true ↔ ∃ k, 11 ≤ k ∧ k ≤ 15 ∧ headerByte bytes k ≠ 0 := by
  have hget (k : Nat) (hk : k < 5) : ((bytes.drop 11).take 5)[k]? = some (headerByte bytes (11 + k)) := by
    rw [List.getElem?_take_of_lt hk, List.getElem?_drop, headerByte, List.getD_eq_getElem _ _ (by omega),
      List.getElem?_eq_getElem (by omega)]
  have hlength : ((bytes.drop 11).take 5).length = 5 := by
    rw [List.length_take, List.length_drop]; omega
  simp only [List.any_eq_true, decide_eq_true_eq, List.mem_iff_getElem?]
  constructor
  · rintro ⟨b, ⟨k, hb⟩, hne⟩
    have hk : k < 5 := hlength ▸ (List.getElem?_eq_some_iff.1 hb).1
    rw [hget k hk, Option.some.injEq] at hb
    exact ⟨11 + k, by omega, by omega, hb ▸ hne⟩
  · rintro ⟨k, hlow, hhigh, hne⟩
    have hk := hget (k - 11) (by omega)
    rw [Nat.add_sub_cancel' hlow] at hk
    exact ⟨_, ⟨k - 11, hk⟩, hne⟩

theorem headerByte_take {bytes : List Byte} {k n : Nat} (hk : k < n) : headerByte (bytes.take n) k = headerByte bytes k := by
  rw [headerByte, headerByte, List.getD_eq_getElem?_getD, List.getD_eq_getElem?_getD, List.getElem?_take_of_lt hk]

theorem headerByte_append {h rest : List Byte} {k : Nat} (hk : k < h.length) : headerByte (h ++ rest) k = headerByte h k := by
  rw [headerByte, headerByte, List.getD_eq_getElem?_getD, List.getD_eq_getElem?_getD, List.getElem?_append_left hk]

/-! ### The checks of R62 -/

/-- The checks of R62 on the header: an image that passes them is accepted if its sections are complete. -/
structure GoodHeader (id : Byte) (bytes : List Byte) : Prop where
  magic : bytes.take 4 = magic
  length : 16 ≤ bytes.length
  legacy : (headerByte bytes 7).getLsbD 2 = false
  reserved : ∀ k, 11 ≤ k → k ≤ 15 → headerByte bytes k = 0
  mapper : mapperIdOf (headerByte bytes 6) (headerByte bytes 7) = id
  programRom : headerByte bytes 4 ≠ 0

theorem reserved_any_false {bytes : List Byte} (hlen : 16 ≤ bytes.length)
    (h : ∀ k, 11 ≤ k → k ≤ 15 → headerByte bytes k = 0) : ¬ ((bytes.drop 11).take 5).any (· ≠ 0) = true := by
  rw [reserved_any_iff hlen]
  rintro ⟨k, hlow, hhigh, hne⟩
  exact hne (h k hlow hhigh)

/-- With a good header the load is that of the sections (R62, lines 8 to 10). -/
theorem load_of_goodHeader {id : Byte} {bytes : List Byte} (h : GoodHeader id bytes) :
    load id bytes = loadSections (bytes.take 16) (bytes.drop 16) := by
  rw [load, if_neg (not_not_intro h.magic), if_neg (Nat.not_lt.2 h.length), if_neg (by rw [h.legacy]; decide),
    if_neg (reserved_any_false h.length h.reserved), if_neg (not_not_intro h.mapper), if_neg h.programRom]

/-- What loads has a good header (R62): each check that fails is an error. -/
theorem goodHeader_of_load {id : Byte} {bytes : List Byte} {c : Cartridge} (h : load id bytes = .ok c) :
    GoodHeader id bytes := by
  unfold load at h
  iterate 6
    split at h
    · cases h
  rename_i hmagic hlength hlegacy hreserved hmapper hprogram
  have hlen : 16 ≤ bytes.length := Nat.not_lt.1 hlength
  refine ⟨not_not.1 hmagic, hlen, by simpa using hlegacy, fun k hlow hhigh => ?_, not_not.1 hmapper, hprogram⟩
  by_contra hne
  exact hreserved ((reserved_any_iff hlen).2 ⟨k, hlow, hhigh, hne⟩)

/-- The length that the sections need after the header (R67, R68). -/
def sectionsLength (header : List Byte) : Nat :=
  trainerLength (headerByte header 6) + (headerByte header 4).toNat * prgPageSize
    + (headerByte header 5).toNat * chrPageSize

/-- A body that is too short for the sections is the one error left (R68). -/
theorem loadSections_short {header body : List Byte} (h : body.length < sectionsLength header) :
    loadSections header body = .error .truncatedImage := if_pos h

/-- The sections that a body of sufficient length holds (R67, R68). -/
theorem loadSections_ok {header body : List Byte} (h : sectionsLength header ≤ body.length) :
    loadSections header body = .ok
      { header
        prgRom := ofBytes ((body.drop (trainerLength (headerByte header 6))).take ((headerByte header 4).toNat * prgPageSize))
        chrRom := ofBytes ((body.drop (trainerLength (headerByte header 6) + (headerByte header 4).toNat * prgPageSize)).take
          ((headerByte header 5).toNat * chrPageSize))
        trainer := if (headerByte header 6).getLsbD 2 then some (ofBytes (body.take 512)) else none } :=
  if_neg (Nat.not_lt.2 h)

/-- The header's own bytes fix the length of the sections. -/
theorem sectionsLength_take (bytes : List Byte) : sectionsLength (bytes.take 16) = sectionsLength bytes := by
  simp only [sectionsLength, headerByte_take (bytes := bytes) (show 4 < 16 by decide),
    headerByte_take (bytes := bytes) (show 5 < 16 by decide), headerByte_take (bytes := bytes) (show 6 < 16 by decide)]

/-- Settles O49: each check of `load` in turn, with the ones before it passed. -/
theorem loadErrorsInOrder : Obligations.LoadErrorsInOrder := by
  intro id bytes
  refine ⟨fun hmagic => if_pos hmagic, fun (hmagic : bytes.take 4 = magic) hlen => ?_,
    fun (hmagic : bytes.take 4 = magic) hlen => ⟨fun hext => ?_, fun hlegacy => ?_⟩⟩
  · rw [load, if_neg (not_not_intro hmagic), if_pos hlen]
  · rw [load, if_neg (not_not_intro hmagic), if_neg (Nat.not_lt.2 hlen), if_pos hext]
  have hformat : ¬ (headerByte bytes 7).getLsbD 2 = true := by rw [hlegacy]; decide
  refine ⟨fun hreserved => ?_, fun hreserved => ⟨fun hmapper => ?_, fun hmapper => ⟨fun hprg => ?_, fun hprg => ?_⟩⟩⟩
  · rw [load, if_neg (not_not_intro hmagic), if_neg (Nat.not_lt.2 hlen), if_neg hformat,
      if_pos ((reserved_any_iff hlen).2 hreserved)]
  · rw [load, if_neg (not_not_intro hmagic), if_neg (Nat.not_lt.2 hlen), if_neg hformat,
      if_neg (reserved_any_false hlen hreserved), if_pos (mt (mapperIdOf_eq_iff _ _ _).1 hmapper)]
  · rw [load, if_neg (not_not_intro hmagic), if_neg (Nat.not_lt.2 hlen), if_neg hformat,
      if_neg (reserved_any_false hlen hreserved), if_neg (not_not_intro ((mapperIdOf_eq_iff _ _ _).2 hmapper)), if_pos hprg]
  have hgood : GoodHeader id bytes := ⟨hmagic, hlen, hlegacy, hreserved, (mapperIdOf_eq_iff _ _ _).2 hmapper, hprg⟩
  have hbody : (bytes.drop 16).length = bytes.length - 16 := List.length_drop
  have hsections := sectionsLength_take bytes
  unfold sectionsLength prgPageSize chrPageSize at hsections
  refine ⟨fun hshort => ?_, fun hlong => ?_⟩
  · rw [load_of_goodHeader hgood, loadSections_short]
    unfold sectionsLength prgPageSize chrPageSize
    omega
  · refine ⟨_, (load_of_goodHeader hgood).trans (loadSections_ok ?_)⟩
    unfold sectionsLength prgPageSize chrPageSize
    omega

/-! ### The sections -/

/-- Settles O50: the sections are cut out of the body one after another, and a byte sequence reads back byte for byte. -/
theorem loadReadsTheSections : Obligations.LoadReadsTheSections := by
  intro id h tr prg chr tail hlen hmagic hlegacy hreserved hmapper hprogram htr hprg hchr
  have hbyte (k : Nat) (hk : k < 16) : headerByte (h ++ tr ++ prg ++ chr ++ tail) k = headerByte h k := by
    simp only [List.append_assoc]
    exact headerByte_append (hlen ▸ hk)
  have hbytes : h ++ tr ++ prg ++ chr ++ tail = h ++ (tr ++ (prg ++ (chr ++ tail))) := by simp only [List.append_assoc]
  refine ⟨?_, fun k hk => ?_⟩
  · have hgood : GoodHeader id (h ++ tr ++ prg ++ chr ++ tail) := by
      refine ⟨?_, ?_, by rw [hbyte 7 (by decide), hlegacy], fun k hlow hhigh => ?_, ?_, by rwa [hbyte 4 (by decide)]⟩
      · rw [hbytes, List.take_append_of_le_length (by omega), hmagic]
        rfl
      · rw [hbytes, List.length_append]
        omega
      · rw [hbyte k (by omega), hreserved k hlow hhigh]
      · rw [hbyte 6 (by decide), hbyte 7 (by decide), hmapper]
    have htrainer : trainerLength (headerByte h 6) = tr.length := htr.symm
    have hprg' : (headerByte h 4).toNat * prgPageSize = prg.length := hprg.symm
    have hchr' : (headerByte h 5).toNat * chrPageSize = chr.length := hchr.symm
    rw [load_of_goodHeader hgood, hbytes, List.take_left' hlen, List.drop_left' hlen, loadSections_ok]
    · rw [htrainer, hprg', hchr', ← List.drop_drop, List.drop_left, List.drop_left, List.take_left, List.take_left]
      congr 2
      split
      · rename_i hset
        rw [if_pos hset] at htr
        rw [List.take_left' htr]
      · rfl
    · simp only [sectionsLength, htrainer, hprg', hchr', List.length_append]
      omega
  · rw [Memory.read_ofBytes, List.getD_eq_getElem _ _ hk, List.getElem?_eq_getElem hk]

/-! ### A loaded cartridge -/

theorem ofBytes_take_within (bs : List Byte) (n : Nat) : (ofBytes (bs.take n)).within n := fun c hc =>
  Nat.lt_of_lt_of_le (Memory.ofBytes_within _ c hc) (List.length_take_le n bs)

/-- What loads is a good cartridge with the accepted mapper id (R62 to R69). -/
theorem load_wf {id : Byte} {bytes : List Byte} {c : Cartridge} (h : load id bytes = .ok c) : c.wf ∧ c.mapperId = id := by
  have hgood := goodHeader_of_load h
  rw [load_of_goodHeader hgood] at h
  have hbyte (k : Nat) (hk : k < 16) : headerByte (bytes.take 16) k = headerByte bytes k := headerByte_take hk
  by_cases hshort : (bytes.drop 16).length < sectionsLength (bytes.take 16)
  · cases (loadSections_short hshort).symm.trans h
  cases (loadSections_ok (Nat.not_lt.1 hshort)).symm.trans h
  have hlength : (bytes.take 16).length = 16 := List.length_take_of_le hgood.length
  refine ⟨⟨hlength, ?magic, ?legacy, ?reserved, ?program, Memory.ofBytes_wf _, ofBytes_take_within _ _, Memory.ofBytes_wf _,
    ofBytes_take_within _ _, ?trainer, ?trainerBytes⟩, ?mapper⟩
  case magic => exact (List.take_take ..).trans hgood.magic
  case legacy => exact (congrArg (·.getLsbD 2) (hbyte 7 (by decide))).trans hgood.legacy
  case reserved =>
    intro b hb
    obtain ⟨k, hk⟩ := List.mem_iff_getElem?.1 hb
    rw [List.getElem?_drop] at hk
    have hlt : 11 + k < 16 := hlength ▸ (List.getElem?_eq_some_iff.1 hk).1
    have hzero : headerByte (bytes.take 16) (11 + k) = 0 :=
      (hbyte _ hlt).trans (hgood.reserved _ (by omega) (by omega))
    rwa [headerByte, List.getD_eq_getElem?_getD, hk] at hzero
  case program =>
    refine Nat.pos_of_ne_zero fun hzero => hgood.programRom ?_
    rw [← hbyte 4 (by decide)]
    exact BitVec.toNat_inj.1 hzero
  case trainer =>
    show Option.isSome (if _ then _ else _) = (headerByte (bytes.take 16) 6).getLsbD 2
    cases (headerByte (bytes.take 16) 6).getLsbD 2 <;> rfl
  case trainerBytes =>
    intro t ht
    obtain ⟨-, hbytes⟩ := Option.ite_none_right_eq_some.1 ht
    cases hbytes
    exact ⟨Memory.ofBytes_wf _, ofBytes_take_within _ _⟩
  case mapper =>
    show mapperIdOf (headerByte (bytes.take 16) 6) (headerByte (bytes.take 16) 7) = id
    rw [hbyte 6 (by decide), hbyte 7 (by decide), hgood.mapper]

/-- Two reads in the windows leave the bus as it was (R53). -/
theorem afterRead16_window (b : Bus) {a : Word} (hlow : 0x8000 ≤ a.toNat) (hhigh : a.toNat < 0xFFFF) :
    b.afterRead16 a = b := by
  have hnext : (a + 1).toNat = a.toNat + 1 := by bv_omega
  rw [Bus.afterRead16, Bus.afterRead_window b hlow, Bus.afterRead_window b (by omega)]

/-- The vector reads of power-on leave the cartridge and the bank selection (R300). -/
theorem powerOn_cart (cfg : Params) (cart : Cartridge) (low : LowBus) : (State.powerOn cfg cart low).bus.cart = cart :=
  (Bus.afterRead_cart _ _).trans (Bus.afterRead_cart _ _)

theorem powerOn_pages (cfg : Params) (cart : Cartridge) (low : LowBus) :
    (State.powerOn cfg cart low).bus.pages = initPages cfg.initPages cart.prgRomPages :=
  (Bus.afterRead_pages _ _).trans (Bus.afterRead_pages _ _)

/-- Settles O51: boot is `load` and then power-on, whose fields are the listed ones; the vector reads leave all but the devices. -/
theorem bootGivesAGoodMachine : Obligations.BootGivesAGoodMachine := by
  intro cfg bytes low s hcanonical hbelow hboot
  unfold boot at hboot
  cases hload : load cfg.mapperId bytes with
  | error e => rw [hload] at hboot; cases hboot
  | ok cart =>
    rw [hload] at hboot
    cases hboot
    obtain ⟨hcart, hmapper⟩ := load_wf hload
    rw [powerOn_cart, powerOn_pages]
    exact ⟨powerOn_inv cfg hcart hcanonical hbelow, hmapper, rfl, rfl, rfl, rfl, rfl, rfl, rfl, rfl, rfl, rfl, rfl, rfl,
      fun hk => by rw [hk]; rfl, rfl, rfl, (Bus.afterRead_map _ _).trans (Bus.afterRead_map _ _),
      (Bus.afterRead_ram _ _).trans (Bus.afterRead_ram _ _),
      fun hlow hhigh => congrArg Bus.low (afterRead16_window _ hlow hhigh)⟩

end Sys2Proof.Proofs.Loading
end

section
/-! PROOFS. Which instructions write which part of the state (10_state.md R42, 41 to 45 for the registers), said once: every
instruction leaves each part that its mnemonic is not listed for. The proof follows the shapes of Machine/Operands.lean; for a rule
it is enough to name the parts it writes. -/

namespace Sys2Proof.Proofs.Writers

open Sys2Proof Sys2Proof.Machine Sys2Proof.Claims
open Sys2Proof.Proofs.LoadStore Sys2Proof.Proofs.Modify Sys2Proof.Proofs.CompareAndCount Sys2Proof.Proofs.LogicAndShift
open Sys2Proof.Proofs.WriteFrame

/-! ### The parts of the state and their writers -/

/-- The parts of the state that the statements about writers are about. -/
inductive Part
  | a | x | y | sp | carry | zero | interrupt | decimal | brk | overflow | negative | ram | banks

/-- The part has the same value in both states. -/
def Part.Same (p : Part) (s t : State) : Prop :=
  match p with
  | .a => t.a = s.a
  | .x => t.x = s.x
  | .y => t.y = s.y
  | .sp => t.sp = s.sp
  | .carry => t.flags.c = s.flags.c
  | .zero => t.flags.z = s.flags.z
  | .interrupt => t.flags.i = s.flags.i
  | .decimal => t.flags.d = s.flags.d
  | .brk => t.flags.b = s.flags.b
  | .overflow => t.flags.v = s.flags.v
  | .negative => t.flags.n = s.flags.n
  | .ram => t.bus.low.ram = s.bus.low.ram
  | .banks => t.bus.pages = s.bus.pages

/-- The listed writers of Z and N (R42). -/
def znWriters : List Mnemonic :=
  [.lda, .ldx, .ldy, .tax, .tay, .txa, .tya, .tsx, .pla, .and, .ora, .eor, .asl, .lsr, .rol, .ror, .inc, .inx,
    .iny, .dec, .dex, .dey, .cmp, .cpx, .cpy, .adc, .sbc, .bit, .plp, .rti]

/-- The listed writers of a part. -/
def Part.writers (p : Part) : List Mnemonic :=
  match p with
  | .a => [.adc, .sbc, .and, .ora, .eor, .lda, .pla, .txa, .tya, .asl, .lsr, .rol, .ror]
  | .x => [.ldx, .tax, .tsx, .inx, .dex]
  | .y => [.ldy, .tay, .iny, .dey]
  | .sp => [.pha, .php, .pla, .plp, .txs, .jsr, .rts, .brk, .rti]
  | .carry => [.adc, .sbc, .cmp, .cpx, .cpy, .asl, .lsr, .rol, .ror, .clc, .sec, .plp, .rti]
  | .zero | .negative => znWriters
  | .interrupt => [.sei, .cli, .brk, .plp, .rti]
  | .decimal => [.sed, .cld, .plp, .rti]
  | .brk => [.brk, .plp, .rti]
  | .overflow => [.adc, .sbc, .bit, .clv, .plp, .rti]
  | .ram => [.sta, .stx, .sty, .inc, .dec, .asl, .lsr, .rol, .ror, .pha, .php, .jsr, .brk]
  | .banks => [.sta, .stx, .sty, .inc, .dec, .asl, .lsr, .rol, .ror]

theorem Part.Same.trans {p : Part} {s t u : State} (h : p.Same s t) (k : p.Same t u) : p.Same s u := by
  cases p <;> exact Eq.trans k h

/-- Between the states only the parts that `ps` names differ. -/
def Writes (ps : List Part) (s t : State) : Prop := ∀ p, p ∈ ps ∨ p.Same s t

theorem Writes.trans {ps : List Part} {s t u : State} (h : Writes ps s t) (k : Writes ps t u) : Writes ps s u := by
  intro p
  rcases h p with hp | hst
  · exact .inl hp
  · exact (k p).imp_right hst.trans

theorem Writes.mono {ps qs : List Part} {s t : State} (h : Writes ps s t) (hsub : ps ⊆ qs) : Writes qs s t :=
  fun p => (h p).imp_left (hsub ·)

/-- Bookkeeping writes no part: the accesses of reads, PC and cycles. -/
theorem looks_writes (as : List Word) (s : State) : Writes [] s (s.looks as) := by
  induction as generalizing s with
  | nil => exact fun p => .inr (by cases p <;> rfl)
  | cons a as ih =>
    have hlook : Writes [] s (s.look a) := by
      intro p
      refine .inr ?_
      cases p
      case ram => exact Bus.afterRead_ram _ _
      case banks => exact Bus.afterRead_pages _ _
      all_goals rfl
    exact hlook.trans (ih _)

theorem advance_writes (n : Nat) (s : State) : Writes [] s (s.advance n) := fun p => .inr (by cases p <;> rfl)

theorem charge_writes (op : Byte) (k : Bool) (s : State) : Writes [] s (s.charge op k) := fun p => .inr (by cases p <;> rfl)

/-- A bus write writes RAM and the bank selection at most. -/
theorem memWrite_writes (a : Word) (v : Byte) (s : State) : Writes [.ram, .banks] s (memWrite a v s) := fun p => by
  cases p <;> simp [Part.Same]

/-! ### The shapes of instruction -/

theorem readInstr_writes {ps : List Part} {f : Byte → State → State} (hf : ∀ v (s : State), Writes ps s (f v s))
    (op : Byte) (src : Source) (s : State) : Writes ps s (readInstr op src f s) := by
  obtain ⟨as, hfetch⟩ := fetch_frame src (s.advance (1 + src.operand.width))
  have hreads : Writes [] s (src.fetch (s.advance (1 + src.operand.width))).state :=
    (advance_writes _ s).trans (hfetch ▸ looks_writes as _)
  exact (hreads.mono (List.nil_subset ps)).trans ((hf _ _).trans ((charge_writes op _ _).mono (List.nil_subset ps)))

theorem storeInstr_writes (op : Byte) (m : MemMode) (v : State → Byte) (s : State) :
    Writes [.ram, .banks] s (storeInstr op m v s) := by
  obtain ⟨as, hresolve⟩ := resolve_frame m (s.advance (1 + (Operand.mem m).width))
  have hreads : Writes [] s (resolve m (s.advance (1 + (Operand.mem m).width))).2 :=
    (advance_writes _ s).trans (hresolve ▸ looks_writes as _)
  exact (hreads.mono (List.nil_subset _)).trans
    ((memWrite_writes _ _ _).trans ((charge_writes op _ _).mono (List.nil_subset _)))

theorem impliedInstr_writes {ps : List Part} {f : State → State} (hf : ∀ s : State, Writes ps s (f s)) (op : Byte)
    (s : State) : Writes ps s (impliedInstr op f s) :=
  ((advance_writes 1 s).mono (List.nil_subset ps)).trans ((hf _).trans ((charge_writes op false _).mono (List.nil_subset ps)))

theorem modifyInstr_acc_writes {ps : List Part} {f : Byte → Flags → Modified}
    (hf : ∀ v (s : State), Writes ps s { s with flags := (f v s.flags).2 }) (op : Byte) (s : State) :
    Writes (.a :: ps) s (modifyInstr op .acc f s) := by
  have hadvance := advance_writes (1 + Operand.acc.width) s
  generalize hu : s.advance (1 + Operand.acc.width) = u at hadvance
  have hflags := hf u.a u
  generalize hw : { u with flags := (f u.a u.flags).2 } = w at hflags
  have hacc : Writes [.a] w { w with a := (f u.a u.flags).1 } := fun p => by cases p <;> simp [Part.Same]
  have hall := (hadvance.mono (List.nil_subset (.a :: ps))).trans ((hflags.mono (List.subset_cons_self _ _)).trans
    ((hacc.mono (by simp)).trans ((charge_writes op false _).mono (List.nil_subset _))))
  subst hw hu
  exact hall

theorem modifyInstr_mem_writes {ps : List Part} {f : Byte → Flags → Modified}
    (hf : ∀ v (s : State), Writes ps s { s with flags := (f v s.flags).2 }) (op : Byte) (m : MemMode) (s : State) :
    Writes (.ram :: .banks :: ps) s (modifyInstr op (.mem m) f s) := by
  rw [modifyInstr_mem]
  dsimp only
  generalize hu : s.advance (1 + (Operand.mem m).width) = u
  obtain ⟨as, hresolve⟩ := resolve_frame m u
  have hreads : Writes [] s (memRead (resolve m u).1.ea (resolve m u).2).2 := by
    rw [memRead_eq, hresolve]
    exact (hu ▸ advance_writes _ s).trans ((looks_writes as u).trans (looks_writes [_] _))
  generalize (memRead (resolve m u).1.ea (resolve m u).2).2 = w at hreads
  exact (hreads.mono (List.nil_subset _)).trans (((hf _ w).mono (by simp)).trans
    (((memWrite_writes _ _ _).mono (by simp)).trans ((charge_writes op _ _).mono (List.nil_subset _))))

/-! ### The rules -/

theorem loadA_writes (v : Byte) (s : State) : Writes [.a, .zero, .negative] s (loadA v s) := fun p => by
  cases p <;> simp [Part.Same, loadA]

theorem loadX_writes (v : Byte) (s : State) : Writes [.x, .zero, .negative] s (loadX v s) := fun p => by
  cases p <;> simp [Part.Same, loadX]

theorem loadY_writes (v : Byte) (s : State) : Writes [.y, .zero, .negative] s (loadY v s) := fun p => by
  cases p <;> simp [Part.Same, loadY]

theorem writeAlu_writes (r : AluResult) (s : State) :
    Writes [.a, .carry, .zero, .overflow, .negative] s (writeAlu r s) := fun p => by
  cases p <;> simp [Part.Same, writeAlu, Flags.ofAlu]

theorem compare_writes (r v : Byte) (s : State) :
    Writes [.carry, .zero, .negative] s { s with flags := s.flags.compare r v } := fun p => by
  cases p <;> simp [Part.Same, Flags.compare]

theorem bitTestA_writes (v : Byte) (s : State) : Writes [.zero, .overflow, .negative] s (bitTestA v s) := fun p => by
  cases p <;> simp [Part.Same, bitTestA, Flags.bitTest]

theorem increment_writes (v : Byte) (s : State) :
    Writes [.zero, .negative] s { s with flags := (increment v s.flags).2 } := fun p => by
  cases p <;> simp [Part.Same, increment]

theorem decrement_writes (v : Byte) (s : State) :
    Writes [.zero, .negative] s { s with flags := (decrement v s.flags).2 } := fun p => by
  cases p <;> simp [Part.Same, decrement]

theorem asl_writes (v : Byte) (s : State) :
    Writes [.carry, .zero, .negative] s { s with flags := (asl v s.flags).2 } := fun p => by
  cases p <;> simp [Part.Same, asl]

theorem lsr_writes (v : Byte) (s : State) :
    Writes [.carry, .zero, .negative] s { s with flags := (lsr v s.flags).2 } := fun p => by
  cases p <;> simp [Part.Same, lsr]

theorem rol_writes (v : Byte) (s : State) :
    Writes [.carry, .zero, .negative] s { s with flags := (rol v s.flags).2 } := fun p => by
  cases p <;> simp [Part.Same, rol]

theorem ror_writes (v : Byte) (s : State) :
    Writes [.carry, .zero, .negative] s { s with flags := (ror v s.flags).2 } := fun p => by
  cases p <;> simp [Part.Same, ror]

theorem txs_writes (s : State) : Writes [.sp] s { s with sp := s.x } := fun p => by cases p <;> simp [Part.Same]

theorem carry_writes (b : Bool) (s : State) : Writes [.carry] s { s with flags.c := b } := fun p => by
  cases p <;> simp [Part.Same]

theorem interrupt_writes (b : Bool) (s : State) : Writes [.interrupt] s { s with flags.i := b } := fun p => by
  cases p <;> simp [Part.Same]

theorem decimal_writes (b : Bool) (s : State) : Writes [.decimal] s { s with flags.d := b } := fun p => by
  cases p <;> simp [Part.Same]

theorem overflow_writes (b : Bool) (s : State) : Writes [.overflow] s { s with flags.v := b } := fun p => by
  cases p <;> simp [Part.Same]

theorem pc_writes (w : Word) (s : State) : Writes [] s { s with pc := w } := fun p => .inr (by cases p <;> rfl)

/-- A push is below the windows, so it selects no bank (R31, R54). -/
theorem push_writes (v : Byte) (s : State) : Writes [.sp, .ram] s (push v s) := fun p => by
  cases p
  case banks =>
    refine .inr (show (s.bus.write s.cfg (stackAddr s.sp) v).pages = s.bus.pages from ?_)
    rw [Bus.write_low s.cfg (stackAddr_low s.sp)]
  all_goals simp [Part.Same]

theorem push16_writes (w : Word) (s : State) : Writes [.sp, .ram] s (push16 w s) :=
  (push_writes _ _).trans (push_writes _ _)

theorem pop_writes (s : State) : Writes [.sp] s (pop s).2 := by
  have hsp : Writes [.sp] s { s with sp := s.sp + 1 } := fun p => by cases p <;> simp [Part.Same]
  exact hsp.trans ((looks_writes [_] _).mono (List.nil_subset _))

theorem pop16_writes (s : State) : Writes [.sp] s (pop16 s).2 := (pop_writes s).trans (pop_writes _)

/-- The seven flags, which PLP and RTI write all (R42). -/
def flagParts : List Part := [.carry, .zero, .interrupt, .decimal, .brk, .overflow, .negative]

theorem flags_writes (fl : Flags) (s : State) : Writes flagParts s { s with flags := fl } := fun p => by
  cases p <;> simp [Part.Same, flagParts]

theorem pullA_writes (s : State) : Writes [.sp, .a, .zero, .negative] s (pullA s) :=
  ((pop_writes s).mono (by simp)).trans ((loadA_writes _ _).mono (by simp))

theorem pullStatus_writes (s : State) : Writes (.sp :: flagParts) s (pullStatus s) :=
  ((pop_writes s).mono (by simp)).trans ((flags_writes _ _).mono (by simp))

theorem returnFromSubroutine_writes (s : State) : Writes [.sp] s (returnFromSubroutine s) :=
  (pop16_writes s).trans ((pc_writes _ _).mono (List.nil_subset _))

/-- Entering a handler pushes, sets I, and sets B if it is BRK that enters (R255, R279). -/
theorem enterHandler_writes (ret : Word) (brk : Bool) (vec : Word) (s : State) :
    Writes [.sp, .ram, .interrupt, .brk] s (enterHandler ret brk vec s) := by
  rw [enterHandler_eq]
  dsimp only
  have hpushes : Writes [.sp, .ram] s (push (s.flags.pack brk) (push16 ret s)) :=
    (push16_writes ret s).trans (push_writes _ _)
  have hflags : (push (s.flags.pack brk) (push16 ret s)).flags = s.flags := by
    simp only [push16, push_flags]
  generalize push (s.flags.pack brk) (push16 ret s) = u at hpushes hflags
  have hlooks := looks_writes [vec, vec + 1] u
  have hupdate : Writes [.interrupt, .brk] (u.looks [vec, vec + 1]) { u.looks [vec, vec + 1] with
      pc := u.bus.read16 vec, flags := { s.flags with b := s.flags.b || brk, i := true } } := fun p => by
    cases p <;> simp [Part.Same, hflags]
  exact (hpushes.mono (by simp)).trans ((hlooks.mono (List.nil_subset _)).trans (hupdate.mono (by simp)))

theorem leaveHandler_writes (s : State) : Writes (.sp :: flagParts) s (leaveHandler s) := by
  have hpops : Writes [.sp] s (pop16 (pop s).2).2 := (pop_writes s).trans (pop16_writes _)
  exact (hpops.mono (by simp)).trans (((flags_writes (Flags.unpack (pop s).1) _).mono (by simp)).trans
    ((pc_writes (pop16 (pop s).2).1 _).mono (List.nil_subset _)))

theorem branch_writes (op : Byte) (cond : Bool) (rel : Byte) (s : State) : Writes [] s (branch op cond rel s) := by
  cases cond <;> exact fun p => .inr (by cases p <;> rfl)

theorem jumpAbs_writes (op : Byte) (w : Word) (s : State) : Writes [] s (jumpAbs op w s) :=
  fun p => .inr (by cases p <;> rfl)

theorem jumpInd_writes (op : Byte) (w : Word) (s : State) : Writes [] s (jumpInd op w s) :=
  (advance_writes 3 s).trans ((looks_writes [w, indHighAddr s.cfg.jmpIndPageWrap w] _).trans
    ((pc_writes _ _).trans (charge_writes op false _)))

theorem jumpSubroutine_writes (op : Byte) (w : Word) (s : State) : Writes [.sp, .ram] s (jumpSubroutine op w s) :=
  ((advance_writes 3 s).mono (List.nil_subset _)).trans ((push16_writes _ _).trans
    (((pc_writes w _).trans (charge_writes op false _)).mono (List.nil_subset _)))

/-! ### Every instruction -/

/-- What a shape writes is listed for the mnemonic that runs as it. -/
theorem Writes.listed {ps : List Part} {s t u : State} {i : Instr} {n : Mnemonic} (hw : Writes ps s u)
    (hexec : exec i s = .next u) (h : exec i s = .next t) (hn : i.mnemonic = n) (hps : ∀ p ∈ ps, n ∈ p.writers) (p : Part) :
    i.mnemonic ∈ p.writers ∨ p.Same s t := by
  cases hexec.symm.trans h
  rw [hn]
  exact (hw p).imp_left (hps p)

/-- Every instruction leaves each part that its mnemonic is not listed for. -/
theorem exec_writers {i : Instr} {s t : State} (h : exec i s = .next t) (p : Part) :
    i.mnemonic ∈ p.writers ∨ p.Same s t := by
  revert p
  cases i
  case unsupported => cases h
  case ldaImm | ldaZp | ldaZpx | ldaAbs | ldaAbx | ldaAby | ldaIzx | ldaIzy =>
    exact (readInstr_writes loadA_writes _ _ s).listed (n := .lda) rfl h rfl (by decide)
  case ldxImm | ldxZp | ldxZpy | ldxAbs | ldxAby =>
    exact (readInstr_writes loadX_writes _ _ s).listed (n := .ldx) rfl h rfl (by decide)
  case ldyImm | ldyZp | ldyZpx | ldyAbs | ldyAbx =>
    exact (readInstr_writes loadY_writes _ _ s).listed (n := .ldy) rfl h rfl (by decide)
  case adcImm | adcZp | adcZpx | adcAbs | adcAbx | adcAby | adcIzx | adcIzy =>
    exact (readInstr_writes (fun _ _ => writeAlu_writes _ _) _ _ s).listed (n := .adc) rfl h rfl (by decide)
  case sbcImm | sbcZp | sbcZpx | sbcAbs | sbcAbx | sbcAby | sbcIzx | sbcIzy =>
    exact (readInstr_writes (fun _ _ => writeAlu_writes _ _) _ _ s).listed (n := .sbc) rfl h rfl (by decide)
  case cmpImm | cmpZp | cmpZpx | cmpAbs | cmpAbx | cmpAby | cmpIzx | cmpIzy =>
    exact (readInstr_writes (fun _ _ => compare_writes _ _ _) _ _ s).listed (n := .cmp) rfl h rfl (by decide)
  case cpxImm | cpxZp | cpxAbs =>
    exact (readInstr_writes (fun _ _ => compare_writes _ _ _) _ _ s).listed (n := .cpx) rfl h rfl (by decide)
  case cpyImm | cpyZp | cpyAbs =>
    exact (readInstr_writes (fun _ _ => compare_writes _ _ _) _ _ s).listed (n := .cpy) rfl h rfl (by decide)
  case andImm | andZp | andZpx | andAbs | andAbx | andAby | andIzx | andIzy =>
    exact (readInstr_writes (fun _ _ => loadA_writes _ _) _ _ s).listed (n := .and) rfl h rfl (by decide)
  case oraImm | oraZp | oraZpx | oraAbs | oraAbx | oraAby | oraIzx | oraIzy =>
    exact (readInstr_writes (fun _ _ => loadA_writes _ _) _ _ s).listed (n := .ora) rfl h rfl (by decide)
  case eorImm | eorZp | eorZpx | eorAbs | eorAbx | eorAby | eorIzx | eorIzy =>
    exact (readInstr_writes (fun _ _ => loadA_writes _ _) _ _ s).listed (n := .eor) rfl h rfl (by decide)
  case bitZp | bitAbs => exact (readInstr_writes bitTestA_writes _ _ s).listed (n := .bit) rfl h rfl (by decide)
  case staZp | staZpx | staAbs | staAbx | staAby | staIzx | staIzy =>
    exact (storeInstr_writes _ _ _ s).listed (n := .sta) rfl h rfl (by decide)
  case stxZp | stxZpy | stxAbs => exact (storeInstr_writes _ _ _ s).listed (n := .stx) rfl h rfl (by decide)
  case styZp | styZpx | styAbs => exact (storeInstr_writes _ _ _ s).listed (n := .sty) rfl h rfl (by decide)
  case incZp | incZpx | incAbs | incAbx =>
    exact (modifyInstr_mem_writes increment_writes _ _ s).listed (n := .inc) rfl h rfl (by decide)
  case decZp | decZpx | decAbs | decAbx =>
    exact (modifyInstr_mem_writes decrement_writes _ _ s).listed (n := .dec) rfl h rfl (by decide)
  case aslZp | aslZpx | aslAbs | aslAbx =>
    exact (modifyInstr_mem_writes asl_writes _ _ s).listed (n := .asl) rfl h rfl (by decide)
  case aslAcc => exact (modifyInstr_acc_writes asl_writes _ s).listed (n := .asl) rfl h rfl (by decide)
  case lsrZp | lsrZpx | lsrAbs | lsrAbx =>
    exact (modifyInstr_mem_writes lsr_writes _ _ s).listed (n := .lsr) rfl h rfl (by decide)
  case lsrAcc => exact (modifyInstr_acc_writes lsr_writes _ s).listed (n := .lsr) rfl h rfl (by decide)
  case rolZp | rolZpx | rolAbs | rolAbx =>
    exact (modifyInstr_mem_writes rol_writes _ _ s).listed (n := .rol) rfl h rfl (by decide)
  case rolAcc => exact (modifyInstr_acc_writes rol_writes _ s).listed (n := .rol) rfl h rfl (by decide)
  case rorZp | rorZpx | rorAbs | rorAbx =>
    exact (modifyInstr_mem_writes ror_writes _ _ s).listed (n := .ror) rfl h rfl (by decide)
  case rorAcc => exact (modifyInstr_acc_writes ror_writes _ s).listed (n := .ror) rfl h rfl (by decide)
  case tax => exact (impliedInstr_writes (fun _ => loadX_writes _ _) _ s).listed (n := .tax) rfl h rfl (by decide)
  case tay => exact (impliedInstr_writes (fun _ => loadY_writes _ _) _ s).listed (n := .tay) rfl h rfl (by decide)
  case txa => exact (impliedInstr_writes (fun _ => loadA_writes _ _) _ s).listed (n := .txa) rfl h rfl (by decide)
  case tya => exact (impliedInstr_writes (fun _ => loadA_writes _ _) _ s).listed (n := .tya) rfl h rfl (by decide)
  case txs => exact (impliedInstr_writes txs_writes _ s).listed (n := .txs) rfl h rfl (by decide)
  case tsx => exact (impliedInstr_writes (fun _ => loadX_writes _ _) _ s).listed (n := .tsx) rfl h rfl (by decide)
  case inx => exact (impliedInstr_writes (fun _ => loadX_writes _ _) _ s).listed (n := .inx) rfl h rfl (by decide)
  case iny => exact (impliedInstr_writes (fun _ => loadY_writes _ _) _ s).listed (n := .iny) rfl h rfl (by decide)
  case dex => exact (impliedInstr_writes (fun _ => loadX_writes _ _) _ s).listed (n := .dex) rfl h rfl (by decide)
  case dey => exact (impliedInstr_writes (fun _ => loadY_writes _ _) _ s).listed (n := .dey) rfl h rfl (by decide)
  case clc => exact (impliedInstr_writes (carry_writes false) _ s).listed (n := .clc) rfl h rfl (by decide)
  case sec => exact (impliedInstr_writes (carry_writes true) _ s).listed (n := .sec) rfl h rfl (by decide)
  case cli => exact (impliedInstr_writes (interrupt_writes false) _ s).listed (n := .cli) rfl h rfl (by decide)
  case sei => exact (impliedInstr_writes (interrupt_writes true) _ s).listed (n := .sei) rfl h rfl (by decide)
  case cld => exact (impliedInstr_writes (decimal_writes false) _ s).listed (n := .cld) rfl h rfl (by decide)
  case sed => exact (impliedInstr_writes (decimal_writes true) _ s).listed (n := .sed) rfl h rfl (by decide)
  case clv => exact (impliedInstr_writes (overflow_writes false) _ s).listed (n := .clv) rfl h rfl (by decide)
  case nop => exact (impliedInstr_writes (fun _ => looks_writes [] _) _ s).listed (n := .nop) rfl h rfl (by decide)
  case pha => exact (impliedInstr_writes (fun _ => push_writes _ _) _ s).listed (n := .pha) rfl h rfl (by decide)
  case pla => exact (impliedInstr_writes pullA_writes _ s).listed (n := .pla) rfl h rfl (by decide)
  case php => exact (impliedInstr_writes (fun _ => push_writes _ _) _ s).listed (n := .php) rfl h rfl (by decide)
  case plp => exact (impliedInstr_writes pullStatus_writes _ s).listed (n := .plp) rfl h rfl (by decide)
  case rts => exact (impliedInstr_writes returnFromSubroutine_writes _ s).listed (n := .rts) rfl h rfl (by decide)
  case brk => exact (impliedInstr_writes (fun _ => enterHandler_writes _ _ _ _) _ s).listed (n := .brk) rfl h rfl (by decide)
  case rti => exact (impliedInstr_writes leaveHandler_writes _ s).listed (n := .rti) rfl h rfl (by decide)
  case bcc => exact (branch_writes _ _ _ s).listed (n := .bcc) rfl h rfl (by decide)
  case bcs => exact (branch_writes _ _ _ s).listed (n := .bcs) rfl h rfl (by decide)
  case beq => exact (branch_writes _ _ _ s).listed (n := .beq) rfl h rfl (by decide)
  case bne => exact (branch_writes _ _ _ s).listed (n := .bne) rfl h rfl (by decide)
  case bmi => exact (branch_writes _ _ _ s).listed (n := .bmi) rfl h rfl (by decide)
  case bpl => exact (branch_writes _ _ _ s).listed (n := .bpl) rfl h rfl (by decide)
  case bvc => exact (branch_writes _ _ _ s).listed (n := .bvc) rfl h rfl (by decide)
  case bvs => exact (branch_writes _ _ _ s).listed (n := .bvs) rfl h rfl (by decide)
  case jmpAbs => exact (jumpAbs_writes _ _ s).listed (n := .jmp) rfl h rfl (by decide)
  case jmpInd => exact (jumpInd_writes _ _ s).listed (n := .jmp) rfl h rfl (by decide)
  case jsr => exact (jumpSubroutine_writes _ _ s).listed (n := .jsr) rfl h rfl (by decide)

/-- Settles O58: `exec_writers`, flag by flag. -/
theorem flagWritersAreTheListed : Obligations.FlagWritersAreTheListed := by
  intro i s t h
  have hpart := exec_writers h
  exact ⟨(hpart .carry).resolve_right, fun hzn => hzn.elim (hpart .zero).resolve_right (hpart .negative).resolve_right,
    (hpart .interrupt).resolve_right, (hpart .decimal).resolve_right, (hpart .brk).resolve_right,
    (hpart .overflow).resolve_right⟩

/-! ### Accumulator or memory -/

theorem RunsAsModify.operand_cases {f : Byte → Flags → Modified} {i : Instr} (h : RunsAsModify f i) :
    i.operand = .acc ∨ ∃ m, i.operand = .mem m := by
  obtain ⟨tgt, htgt, -⟩ := h
  cases tgt with
  | acc => exact .inl htgt
  | mem m => exact .inr ⟨m, htgt⟩

theorem shift_operand_cases {i : Instr} (h : i.mnemonic ∈ [.asl, .lsr, .rol, .ror]) :
    i.operand = .acc ∨ ∃ m, i.operand = .mem m := by
  simp only [List.mem_cons, List.not_mem_nil, or_false] at h
  rcases h with h | h | h | h
  · exact RunsAsModify.operand_cases (asl_rows h).2
  · exact RunsAsModify.operand_cases (lsr_rows h).2
  · exact RunsAsModify.operand_cases (rol_rows h).2
  · exact RunsAsModify.operand_cases (ror_rows h).2

/-- The instructions that can write the bank selection work on memory, but for the accumulator forms of the shifts. -/
theorem storing_operand_cases {i : Instr} (h : i.mnemonic ∈ Part.banks.writers) :
    i.operand = .acc ∨ ∃ m, i.operand = .mem m := by
  simp only [Part.writers, List.mem_cons, List.not_mem_nil, or_false] at h
  rcases h with h | h | h | h | h | h
  · obtain ⟨m, hm, -⟩ := (sta_rows h).2
    exact .inr ⟨m, hm⟩
  · obtain ⟨m, hm, -⟩ := (stx_rows h).2
    exact .inr ⟨m, hm⟩
  · obtain ⟨m, hm, -⟩ := (sty_rows h).2
    exact .inr ⟨m, hm⟩
  · exact RunsAsModify.operand_cases (inc_rows h).2
  · exact RunsAsModify.operand_cases (dec_rows h).2
  · exact shift_operand_cases (by simpa using h)

/-- Settles O59: `exec_writers`, part by part; a shift of memory writes no A (`exec_memory_write`). -/
theorem registerWritersAreTheListed : Obligations.RegisterWritersAreTheListed := by
  intro i s t h
  have hpart := exec_writers h
  refine ⟨fun ha => ?_, (hpart .x).resolve_right, (hpart .y).resolve_right, (hpart .sp).resolve_right,
    (hpart .ram).resolve_right⟩
  have hn : i.mnemonic ∈ [.adc, .sbc, .and, .ora, .eor, .lda, .pla, .txa, .tya] ++ [.asl, .lsr, .rol, .ror] :=
    (hpart .a).resolve_right ha
  refine (List.mem_append.1 hn).imp_right fun hshift => ⟨hshift, (shift_operand_cases hshift).resolve_right ?_⟩
  rintro ⟨m, hm⟩
  obtain ⟨cells, v, fl, rfl⟩ := exec_memory_write hm (List.mem_append_right ([.sta, .stx, .sty, .inc, .dec] : List Mnemonic) hshift) h
  obtain ⟨-, -, -, hacc⟩ := afterWrite_registers i m cells v s
  exact ha hacc

/-- In accumulator mode nothing is accessed (R132). -/
theorem exec_acc_bus {i : Instr} {s t : State} (hi : i.operand = .acc) (h : exec i s = .next t) : t.bus = s.bus := by
  match i, hi with
  | .aslAcc, _ | .lsrAcc, _ | .rolAcc, _ | .rorAcc, _ => cases h; rfl

/-- Settles O57: only the storing instructions are listed for the bank selection, and of them only a memory write that lands in the
control range selects (`Bus.write_pages`). -/
theorem onlyControlWritesSwitchBanks : Obligations.OnlyControlWritesSwitchBanks := by
  intro i s t h hpages
  have hn := (exec_writers h .banks).resolve_right hpages
  refine ⟨hn, ?_⟩
  rcases storing_operand_cases hn with hacc | ⟨m, hm⟩
  · exact absurd (congrArg Bus.pages (exec_acc_bus hacc h)) hpages
  · refine ⟨m, hm, ?_⟩
    obtain ⟨cells, v, fl, rfl⟩ := exec_memory_write hm hn h
    by_contra hrange
    refine hpages ((Bus.write_pages _ _ _ _).trans ?_)
    rw [ofNat_ea_toNat, if_neg hrange, looks_pages]

/-! ### Cycle counts -/

/-- The operands whose index addition can cross a page (R140). -/
def crossable (o : Operand) : Bool :=
  match o with
  | .mem (.abx _) | .mem (.aby _) | .mem (.izy _) => true
  | _ => false

theorem crossable_iff (o : Operand) :
    crossable o = true ↔ ∃ m, o = .mem m ∧ ((∃ w, m = .abx w) ∨ (∃ w, m = .aby w) ∨ ∃ b, m = .izy b) := by
  rcases o with _ | _ | _ | m | _ | _
  case mem => cases m <;> simp [crossable]
  all_goals simp [crossable]

/-- The read-class mnemonics that have an indexed mode (R147). -/
def indexedReads : List Mnemonic := [.lda, .ldx, .ldy, .adc, .sbc, .and, .ora, .eor, .cmp]

/-- The two columns of the table, row by row (R106, R147, R312). -/
theorem cycles_row {i : Instr} (h : i.mnemonic ≠ .unsupported) :
    baseCycles .reference i.opcode = cyclesOf i.mnemonic i.operand ∧
      paysPageCross i.opcode = (decide (i.mnemonic ∈ indexedReads) && crossable i.operand) := by
  cases i
  case unsupported => exact absurd rfl h
  all_goals exact ⟨rfl, rfl⟩

/-- Settles O60: the rows of `cycles_row`, with the condition on the operand written out. -/
theorem baseCyclesFollowClassAndMode : Obligations.BaseCyclesFollowClassAndMode := by
  intro i h
  obtain ⟨hcycles, hpays⟩ := cycles_row h
  refine ⟨hcycles, ?_⟩
  rw [hpays, Bool.and_eq_true, decide_eq_true_iff, crossable_iff]
  rfl

end Sys2Proof.Proofs.Writers
end
